-- ==== Sys2Proof/Word.lean ====
section
/-! DEFINITION. The words of the ProblemSolvingP1 4-bit core: the instruction byte, the 4-bit register
value and the 3-bit immediate (spec/00_scope.md R7). -/

namespace Sys2Proof

/-- One instruction, 8 bits (R7, R60). -/
abbrev Byte := BitVec 8

/-- A value of RA, RB or RO: 4 bits, unsigned (R7, R25). -/
abbrev Nibble := BitVec 4

/-- The immediate and jump-target field: 3 bits, unsigned (R7, R66). -/
abbrev Imm := BitVec 3

end Sys2Proof
end

