-- ==== Sys2Proof/Config.lean ====
section
/-! DEFINITION. What an implementation of the core fixes: the counts of R7 and the parameters of R8. A parameter
with a default is a field of State whose reset value is that default. A parameter the spec leaves OPEN with no
default is an opaque constant here, so that nothing can be proved of its value. -/

namespace Sys2Proof

/-- `OVF_PC` (R8, R111): what the overflow-reset guard does to PC. -/
inductive OvfPc where
  | increment
  | zero
  deriving DecidableEq, Repr

/-- `RUN_POLICY` (R8, R167): how the host runs the core. -/
inductive RunPolicy where
  | continuous
  | stepped
  deriving DecidableEq, Repr

/-- The instruction buffer holds at most 256 bytes (R7, R40). -/
def Config.bufferCapacity : Nat := 256

/-- The overflow-reset guard fires when RO exceeds 13 (R7, R110). -/
def Config.overflowThreshold : Nat := 13

/-- `STEP_CEILING` under `Continuous` (R7, R8, R167). -/
def Config.stepCeiling : Nat := 50

/-- The default of `OVF_PC` (R8; spec/92_eei_decisions.md D5). -/
def Config.defaultOvfPc : OvfPc := .increment

/-- The default of `D11_UPDATES_CARRY` (R8; spec/92_eei_decisions.md D4). -/
def Config.defaultD11UpdatesCarry : Bool := true

/-- The default of `RUN_POLICY` (R8, R169). -/
def Config.defaultRunPolicy : RunPolicy := .continuous

/-- `CEILING_REPORTS_FINAL_RO` (R8, R167; D17): OPEN, no default. A free value (log entry 2). -/
opaque Config.ceilingReportsFinalRo : Bool

/-- Bit 3 of `JC_BYTE(k)` for k = 1..7 (R8, R80; D20): OPEN, no default. `JC_BYTE(k)` lies in 0x70..0x7F and has
`k` in its low three bits, so bit 3 is all the spec leaves free. A free value (log entry 3). The byte of `JC=0` does not
read it: R79 gives that byte (log entry 27). -/
opaque Config.jcByteBit3 : Imm → Bool

end Sys2Proof
end

