-- ==== Sys2Proof/Machine/State.lean ====
section
/-! DEFINITION. The state of the core and of the run it is in, as plain data: the architectural state of R20, the
instruction buffer and the parameters a model takes as arguments (R8, R40), and what the spec gives the host of a
run: the policy, the step counter, the continue signals and the observed events (R166 to R172). -/

namespace Sys2Proof.Machine

/-- Why a step faults: never. The core raises no exception and no instruction can fail (R113, R200, R205), so this
type has no constructor and the claim that no step faults holds by its type. Safe. -/
inductive Fault where
  deriving DecidableEq, Repr

/-- Why a step is refused. -/
inductive Refusal where
  /-- an instruction that has no meaning yet. Raised by an arm of `exec` alone; no arm raises it in this model. Safe. -/
  | notModelled (mnemonic : String)
  /-- a fetch at an address that the buffer does not list, which spec/93_implementation_defined.md item 7 says a
  model must refuse. Raised by `step` alone, and only in a state whose buffer is not in its canonical form: the halt
  check comes first (R42, R163). Safe. -/
  | fetchOutsideBuffer
  deriving DecidableEq, Repr

/-- The instruction buffer IMEM (R40): the pairs (i, IMEM[i]) for i = 0, 1, .., N-1, in that order. An address it does
not list has no value (log entry 5). -/
abbrev Memory := List Host.Cell

/-- `status` (R20, R163). -/
inductive Status where
  | running
  | halted
  deriving DecidableEq, Repr

/-- Whether the host still runs the core (R167, R171, R172). The halt of the core itself is `Status.halted`. -/
inductive RunState where
  /-- the host goes on -/
  | active
  /-- the host stopped the run at the 50-step ceiling -/
  | ceilingStopped
  /-- the host ended the process -/
  | terminated
  deriving DecidableEq, Repr

/-- An event of a run (R166). -/
inductive Event where
  | ro (v : Nibble)
  | overflowReset
  | finalRo (v : Nibble)
  deriving DecidableEq, Repr

/-- What the next step of a run does (R160, R163, R167). -/
inductive Phase where
  /-- the run has ended -/
  | ended
  /-- PC has left the program: the core halts -/
  | halt
  /-- one instruction is fetched and executed -/
  | execute
  /-- the host stops the run at the ceiling -/
  | ceiling
  /-- the core waits for the continue signal -/
  | wait
  deriving DecidableEq, Repr

/-- Everything the spec gives the machine and its run. -/
structure State where
  /-- RA, the left operand of every ALU-path step (R20, R22) -/
  ra     : Nibble
  /-- RB (R20, R23) -/
  rb     : Nibble
  /-- RO, the output register (R20, R24) -/
  ro     : Nibble
  /-- PC, an index into the buffer, 0..256 (R20, R27, R29) -/
  pc     : Nat
  /-- the Carry flag (R20, R30) -/
  carry  : Bool
  /-- `status` (R20, R163) -/
  status : Status
  /-- IMEM, read-only during a run; its length is N (R40) -/
  imem   : Memory
  /-- the parameter `OVF_PC` (R8, R111) -/
  ovfPc  : OvfPc
  /-- the parameter `D11_UPDATES_CARRY` (R8, R109) -/
  d11UpdatesCarry : Bool
  /-- `RUN_POLICY` (R8, R167) -/
  policy : RunPolicy
  /-- the host's count of executed steps under `Continuous` (R168) -/
  steps  : Nat
  /-- the continue signals the host has given under `Stepped` that no step has used (R167, R170) -/
  continues : Nat
  /-- whether the host still runs the core (R171) -/
  run    : RunState
  /-- the observation of the run, oldest event first (R166) -/
  events : List Event
  deriving DecidableEq, Repr

/-- The program length N (R40). -/
def State.n (s : State) : Nat := s.imem.length

/-- RA <- v. -/
def State.setRa (v : Nibble) (s : State) : State := { s with ra := v }

/-- RB <- v. -/
def State.setRb (v : Nibble) (s : State) : State := { s with rb := v }

/-- RO <- v. -/
def State.setRo (v : Nibble) (s : State) : State := { s with ro := v }

/-- PC <- v. -/
def State.setPc (v : Nat) (s : State) : State := { s with pc := v }

/-- Carry <- v. -/
def State.setCarry (v : Bool) (s : State) : State := { s with carry := v }

/-- status <- v. -/
def State.setStatus (v : Status) (s : State) : State := { s with status := v }

/-- The buffer's contents become v. -/
def State.setImem (v : Memory) (s : State) : State := { s with imem := v }

/-- RUN_POLICY becomes v. -/
def State.setPolicy (v : RunPolicy) (s : State) : State := { s with policy := v }

/-- The host's step counter becomes v. -/
def State.setSteps (v : Nat) (s : State) : State := { s with steps := v }

/-- The unused continue signals become v. -/
def State.setContinues (v : Nat) (s : State) : State := { s with continues := v }

/-- The host's side of the run becomes v. -/
def State.setRun (v : RunState) (s : State) : State := { s with run := v }

/-- `emit e` appends e to the observation (R11, R166). -/
def State.emit (e : Event) (s : State) : State := { s with events := s.events ++ [e] }

/-- The state a run starts in (R35, R220), with the parameters at their defaults (R8) and no program loaded: N = 0. -/
def State.reset : State where
  ra     := 0
  rb     := 1
  ro     := 0
  pc     := 0
  carry  := false
  status := .running
  imem   := []
  ovfPc  := Config.defaultOvfPc
  d11UpdatesCarry := Config.defaultD11UpdatesCarry
  policy := Config.defaultRunPolicy
  steps  := 0
  continues := 0
  run    := .active
  events := []

end Sys2Proof.Machine
end

