-- ==== Sys2Proof/Syntax.lean ====
section
/-! DEFINITION. Abstract syntax: the decoded-instruction record of R68, and one constructor of Instr per row of
spec/opcode_table.json. Bits that an instruction ignores (R71) are kept as arguments, so that every byte has
exactly one instruction and that they are ignored can be stated (log entry 18). -/

namespace Sys2Proof

/-- The decoded-instruction record, with its seven fields (R62 to R66, R68). -/
structure Fields where
  j    : Bool
  c    : Bool
  d1   : Bool
  d0   : Bool
  sreg : Bool
  s    : Bool
  imm  : Imm
  deriving DecidableEq, Repr

/-- The destination a selector `(D1,D0)` names (R108, R109): RA, RB, RO, or, for the reserved selector (1,1),
no register at all. -/
inductive Dest where
  | ra
  | rb
  | ro
  | discard
  deriving DecidableEq, Repr

/-- The ALU operation that the field S names (R65). -/
inductive AluOp where
  | add
  | sub
  deriving DecidableEq, Repr

/-- The right operand of the ALU (R70, R104): register RB, or the zero-extended immediate. -/
inductive Operand where
  | rb
  | imm (v : Imm)
  deriving DecidableEq, Repr

/-- The 18 instructions of R72. `x` is the ignored bits 1..0 of an R form; `imm` is `b[2:0]`; `c` and `sreg` of J
are its ignored bits 6 and 3, and its selector `d` still decides the RO observation (R145). -/
inductive Instr where
  | addrRa (x : BitVec 2)
  | subrRa (x : BitVec 2)
  | addiRa (imm : Imm)
  | subiRa (imm : Imm)
  | addrRb (x : BitVec 2)
  | subrRb (x : BitVec 2)
  | addiRb (imm : Imm)
  | subiRb (imm : Imm)
  | addrRo (x : BitVec 2)
  | subrRo (x : BitVec 2)
  | addiRo (imm : Imm)
  | subiRo (imm : Imm)
  | addrNone (x : BitVec 2)
  | subrNone (x : BitVec 2)
  | addiNone (imm : Imm)
  | subiNone (imm : Imm)
  | jc (d : Dest) (sreg : Bool) (imm : Imm)
  | j (c : Bool) (d : Dest) (sreg : Bool) (imm : Imm)
  deriving DecidableEq, Repr

end Sys2Proof
end

