-- ==== Sys2Proof/Machine/Flags.lean ====
section
/-! DEFINITION. The ALU: a 4-bit result and the carry-out, computed over the integers and narrowed at the end
(R10, R100 to R103). Carry is the core's only flag. -/

namespace Sys2Proof.Machine

/-- `ALU(0, a, b)` (R100). -/
def aluAdd (a b : Nibble) : Nibble × Bool :=
  let t := a.toNat + b.toNat
  if t > 15 then (BitVec.ofNat 4 (t &&& 0xF), true) else (BitVec.ofNat 4 t, false)

/-- `ALU(1, a, b)` (R101): the carry is a borrow. -/
def aluSub (a b : Nibble) : Nibble × Bool :=
  let t : Int := (a.toNat : Int) - (b.toNat : Int)
  if t < 0 then (BitVec.ofNat 4 ((t + 16).toNat &&& 0xF), true) else (BitVec.ofNat 4 t.toNat, false)

/-- `ALU(S, a, b)` (R11, R102). -/
def alu (op : AluOp) (a b : Nibble) : Nibble × Bool :=
  match op with
  | .add => aluAdd a b
  | .sub => aluSub a b

end Sys2Proof.Machine
end

