-- ==== Sys2Proof/Machine/Operands.lean ====
section
/-! DEFINITION. The operand forms of an instruction (R70, R104, R105, R143). -/

namespace Sys2Proof.Machine

/-- `zext_4(imm)`: a 3-bit immediate as an ALU operand, its value unchanged (R10, R70). -/
def zextImm (imm : Imm) : Nibble := imm.setWidth 4

/-- The ALU's left operand is always RA (R105). -/
def leftOperand (s : State) : Nibble := s.ra

/-- The ALU's right operand: RB, or the zero-extended immediate (R104). -/
def rightOperand (o : Operand) (s : State) : Nibble :=
  match o with
  | .rb => s.rb
  | .imm v => zextImm v

/-- A jump target: the immediate as an absolute instruction index in 0..7 (R70, R143). -/
def jumpTarget (imm : Imm) : Nat := imm.toNat

end Sys2Proof.Machine
end

