-- ==== Sys2Proof/Machine/Ops.lean ====
section
/-! DEFINITION. The named operations over the instruction buffer and the registers, and the ALU path they make up
(spec/20_memory.md, spec/40_alu.md, spec/41_jump.md). The core has no exception, trap or return from one (R200, R205,
R206), so no operation takes one; what comes nearest is the overflow-reset guard, which is no trap (R202). -/

namespace Sys2Proof.Machine

/-! ## The instruction buffer (R40 to R47) -/

/-- Is the buffer in its canonical form: the addresses 0, 1, .., N-1 in rising order, and at most 256 of them (R40)? -/
abbrev Memory.wf (m : Memory) : Prop := m.map Prod.fst = List.range m.length ∧ m.length ≤ Config.bufferCapacity

/-- `IMEM[a]` (R42); none where the buffer lists no byte. -/
def Memory.read (m : Memory) (a : Nat) : Option Byte :=
  match m with
  | [] => none
  | (k, b) :: rest => if k = a then some b else Memory.read rest a

/-- The bytes of the buffer in address order. -/
def Memory.bytes (m : Memory) : List Byte := m.map Prod.snd

/-- The buffer that a program file fills: byte i of the file is IMEM[i], and only the first 256 bytes are loaded
(R41). -/
def Memory.load (file : List Byte) : Memory :=
  let bs := file.take Config.bufferCapacity
  (List.range bs.length).zip bs

/-- The buffer with byte b at address a, for a host that loads a program a byte at a time: the program is lengthened
with 0x00 bytes where it does not reach a yet (log entry 23). No instruction does this (R53). -/
def Memory.place (m : Memory) (a : Nat) (b : Byte) : Memory :=
  Memory.load ((m.bytes ++ List.replicate (a + 1 - m.length) 0#8).set a b)

/-- The fetch of a step, `MemRead(PC, 1)` (R42, R47, R160). -/
def fetchByte (s : State) : Option Byte := Memory.read s.imem s.pc

/-! ## The ALU path (R104 to R112) -/

/-- Does a step with this selector write Carry? Always, except for the reserved selector (1,1) under
`D11_UPDATES_CARRY = false` (R107, R109). -/
def writesCarry (d : Dest) (s : State) : Bool :=
  match d with
  | .discard => s.d11UpdatesCarry
  | _ => true

/-- The Carry write of an ALU-path step with carry-out c (R107, R109). -/
def updateCarry (d : Dest) (c : Bool) (s : State) : State := if writesCarry d s then s.setCarry c else s

/-- Does a value written to RO fire the overflow-reset guard (R110)? -/
def exceedsThreshold (v : Nibble) : Bool := Config.overflowThreshold < v.toNat

/-- The overflow-reset guard, right after a write to RO (R110): Carry and PC are not its business. -/
def overflowGuard (s : State) : State :=
  if exceedsThreshold s.ro then (((s.setRo 0).setRa 0).setRb 1).emit .overflowReset else s

/-- The register selector routes the result r (R108, R109). -/
def routeResult (d : Dest) (r : Nibble) (s : State) : State :=
  match d with
  | .ra => s.setRa r
  | .rb => s.setRb r
  | .ro => overflowGuard (s.setRo r)
  | .discard => s

/-- Does the guard fire in an ALU-path step with this selector and result (R110)? -/
def guardFires (d : Dest) (r : Nibble) : Bool :=
  match d with
  | .ro => exceedsThreshold r
  | _ => false

/-- PC at the end of an ALU-path step (R111). -/
def advancePc (fired : Bool) (s : State) : State :=
  if fired && s.ovfPc == .zero then s.setPc 0 else s.setPc (s.pc + 1)

/-- `alu_path` (R112): the operands are read first, then Carry is written, the result routed, the guard run and PC
advanced (R106, R204). -/
def aluPath (op : AluOp) (o : Operand) (d : Dest) (s : State) : State :=
  let rc := alu op (leftOperand s) (rightOperand o s)
  advancePc (guardFires d rc.1) (routeResult d rc.1 (updateCarry d rc.2 s))

/-- The RO observation at the end of a step whose selector is (1,0): RO's value after the step (R161, R164). -/
def observeRo (d : Dest) (s : State) : State :=
  match d with
  | .ro => s.emit (.ro s.ro)
  | _ => s

/-- A whole step that takes the ALU path: the path, then the RO observation (R161). -/
def aluStep (op : AluOp) (o : Operand) (d : Dest) (s : State) : State := observeRo d (aluPath op o d s)

/-- A whole step that takes a jump: PC, then the RO observation (R140, R141, R145). -/
def jumpStep (d : Dest) (imm : Imm) (s : State) : State := observeRo d (s.setPc (jumpTarget imm))

end Sys2Proof.Machine
end

