-- ==== Sys2Proof/Machine/Alu.lean ====
section
/-! DEFINITION. The sixteen instructions of the ALU class (spec/40_alu.md R120 to R135): each one line over `aluStep`.
None of them faults or stalls (R113). -/

namespace Sys2Proof.Machine

/-- ADDR.RA (R120): RA <- RA + RB. The bits x are ignored. -/
def execAddrRa (_x : BitVec 2) (s : State) : Host.Outcome State Fault Refusal := .next (aluStep .add .rb .ra s)

/-- SUBR.RA (R121): RA <- RA - RB. The bits x are ignored. -/
def execSubrRa (_x : BitVec 2) (s : State) : Host.Outcome State Fault Refusal := .next (aluStep .sub .rb .ra s)

/-- ADDI.RA (R122): RA <- RA + imm. -/
def execAddiRa (imm : Imm) (s : State) : Host.Outcome State Fault Refusal := .next (aluStep .add (.imm imm) .ra s)

/-- SUBI.RA (R123): RA <- RA - imm. -/
def execSubiRa (imm : Imm) (s : State) : Host.Outcome State Fault Refusal := .next (aluStep .sub (.imm imm) .ra s)

/-- ADDR.RB (R124): RB <- RA + RB. The bits x are ignored. -/
def execAddrRb (_x : BitVec 2) (s : State) : Host.Outcome State Fault Refusal := .next (aluStep .add .rb .rb s)

/-- SUBR.RB (R125): RB <- RA - RB. The bits x are ignored. -/
def execSubrRb (_x : BitVec 2) (s : State) : Host.Outcome State Fault Refusal := .next (aluStep .sub .rb .rb s)

/-- ADDI.RB (R126): RB <- RA + imm. -/
def execAddiRb (imm : Imm) (s : State) : Host.Outcome State Fault Refusal := .next (aluStep .add (.imm imm) .rb s)

/-- SUBI.RB (R127): RB <- RA - imm. -/
def execSubiRb (imm : Imm) (s : State) : Host.Outcome State Fault Refusal := .next (aluStep .sub (.imm imm) .rb s)

/-- ADDR.RO (R128): RO <- RA + RB, then the overflow-reset guard and the RO observation. The bits x are ignored. -/
def execAddrRo (_x : BitVec 2) (s : State) : Host.Outcome State Fault Refusal := .next (aluStep .add .rb .ro s)

/-- SUBR.RO (R129): RO <- RA - RB, then the overflow-reset guard and the RO observation. The bits x are ignored. -/
def execSubrRo (_x : BitVec 2) (s : State) : Host.Outcome State Fault Refusal := .next (aluStep .sub .rb .ro s)

/-- ADDI.RO (R130): RO <- RA + imm, then the overflow-reset guard and the RO observation. -/
def execAddiRo (imm : Imm) (s : State) : Host.Outcome State Fault Refusal := .next (aluStep .add (.imm imm) .ro s)

/-- SUBI.RO (R131): RO <- RA - imm, then the overflow-reset guard and the RO observation. -/
def execSubiRo (imm : Imm) (s : State) : Host.Outcome State Fault Refusal := .next (aluStep .sub (.imm imm) .ro s)

/-- ADDR.NONE (R132): RA + RB, result discarded. The bits x are ignored. -/
def execAddrNone (_x : BitVec 2) (s : State) : Host.Outcome State Fault Refusal := .next (aluStep .add .rb .discard s)

/-- SUBR.NONE (R133): RA - RB, result discarded. The bits x are ignored. -/
def execSubrNone (_x : BitVec 2) (s : State) : Host.Outcome State Fault Refusal := .next (aluStep .sub .rb .discard s)

/-- ADDI.NONE (R134): RA + imm, result discarded. -/
def execAddiNone (imm : Imm) (s : State) : Host.Outcome State Fault Refusal := .next (aluStep .add (.imm imm) .discard s)

/-- SUBI.NONE (R135): RA - imm, result discarded. -/
def execSubiNone (imm : Imm) (s : State) : Host.Outcome State Fault Refusal := .next (aluStep .sub (.imm imm) .discard s)

end Sys2Proof.Machine
end

