-- ==== Sys2Proof/WellFormed.lean ====
section
/-! DEFINITION. Which terms of Instr the encoding admits. S and imm[2] are one bit (R69), so an I form that adds has
an immediate in 0..3 and one that subtracts has an immediate in 4..7. -/

namespace Sys2Proof

/-- An immediate that an adding I form can hold: imm[2] = S = 0 (R69, R122). -/
def Imm.addable (imm : Imm) : Bool := imm.toNat < 4

/-- An immediate that a subtracting I form can hold: imm[2] = S = 1 (R69, R123). -/
def Imm.subtractable (imm : Imm) : Bool := 4 ≤ imm.toNat

/-- The instruction is one that some byte encodes. -/
def Instr.wellFormed : Instr → Bool
  | .addrRa _ => true
  | .subrRa _ => true
  | .addiRa imm => Imm.addable imm
  | .subiRa imm => Imm.subtractable imm
  | .addrRb _ => true
  | .subrRb _ => true
  | .addiRb imm => Imm.addable imm
  | .subiRb imm => Imm.subtractable imm
  | .addrRo _ => true
  | .subrRo _ => true
  | .addiRo imm => Imm.addable imm
  | .subiRo imm => Imm.subtractable imm
  | .addrNone _ => true
  | .subrNone _ => true
  | .addiNone imm => Imm.addable imm
  | .subiNone imm => Imm.subtractable imm
  | .jc _ _ _ => true
  | .j _ _ _ _ => true

end Sys2Proof
end

