-- ==== Sys2Proof/Decode.lean ====
section
/-! DEFINITION. From bytes to instructions and back (spec/30_encoding.md). Decoding one byte is total and cannot fail
(R67); the only rejection, by name, is a byte sequence with no byte left in it. -/

namespace Sys2Proof

/-! ## Field extraction (R61 to R68) -/

/-- `decode(b)` of R68: pure bit extraction. -/
def decodeFields (b : Byte) : Fields where
  j    := b.getLsbD 7
  c    := b.getLsbD 6
  d1   := b.getLsbD 5
  d0   := b.getLsbD 4
  sreg := b.getLsbD 3
  s    := b.getLsbD 2
  imm  := b.extractLsb' 0 3

/-- The destination of the selector `(D1,D0)` (R64, R108, R109). -/
def destOfBits (d1 d0 : Bool) : Dest :=
  match d1, d0 with
  | false, false => .ra
  | false, true => .rb
  | true, false => .ro
  | true, true => .discard

/-- The selector bits `b[5:4]` of a destination. -/
def destBits (d : Dest) : BitVec 2 :=
  match d with
  | .ra => 0b00#2
  | .rb => 0b01#2
  | .ro => 0b10#2
  | .discard => 0b11#2

/-- The operation of the field S: 0 is add and 1 is subtract (R65). -/
def opOfS (s : Bool) : AluOp := if s then .sub else .add

/-- The right operand: imm when Sreg = 1, RB when Sreg = 0 (R65, R70, R104). -/
def operandOfSreg (sreg : Bool) (imm : Imm) : Operand := if sreg then .imm imm else .rb

/-- The opcode map (R71, R72): J first, then JC, then the ALU class by destination, Sreg and S. -/
def instrOfFields (f : Fields) : Instr :=
  let d := destOfBits f.d1 f.d0
  let x := f.imm.extractLsb' 0 2
  if f.j then .j f.c d f.sreg f.imm
  else if f.c then .jc d f.sreg f.imm
  else
    match d, f.sreg, f.s with
    | .ra, false, false => .addrRa x
    | .ra, false, true => .subrRa x
    | .ra, true, false => .addiRa f.imm
    | .ra, true, true => .subiRa f.imm
    | .rb, false, false => .addrRb x
    | .rb, false, true => .subrRb x
    | .rb, true, false => .addiRb f.imm
    | .rb, true, true => .subiRb f.imm
    | .ro, false, false => .addrRo x
    | .ro, false, true => .subrRo x
    | .ro, true, false => .addiRo f.imm
    | .ro, true, true => .subiRo f.imm
    | .discard, false, false => .addrNone x
    | .discard, false, true => .subrNone x
    | .discard, true, false => .addiNone f.imm
    | .discard, true, true => .subiNone f.imm

/-- The instruction a byte encodes. Total: all 256 byte values decode (R67, R74). -/
def decode (b : Byte) : Instr := instrOfFields (decodeFields b)

/-- Why a byte sequence gives no instruction. -/
inductive DecodeError where
  /-- no byte is left to decode. Raised by `decodeBytes` alone. Safe: nothing is executed. -/
  | noByte
  deriving DecidableEq, Repr

/-- The first instruction of a byte sequence, one byte long (R60, R76), and the bytes after it. -/
def decodeBytes (bs : List Byte) : Except DecodeError (Instr × List Byte) :=
  match bs with
  | [] => .error .noByte
  | b :: rest => .ok (decode b, rest)

/-- The decoder on a table word: the byte is the word's low `nbits` bits, the bits above them zero. -/
def decodeTableWord (nbits w : Nat) : Option Instr :=
  match decodeBytes [BitVec.ofNat 8 (w % 2 ^ nbits)] with
  | .ok (i, _) => some i
  | .error _ => none

/-! ## Encoding (the `encoding` patterns of spec/opcode_table.json, bits 7 down to 0) -/

/-- The byte of an instruction. -/
def encode : Instr → Byte
  | .addrRa x => (0b000000#6 ++ x : BitVec 8)
  | .subrRa x => (0b000001#6 ++ x : BitVec 8)
  | .addiRa imm => (0b00001#5 ++ imm : BitVec 8)
  | .subiRa imm => (0b00001#5 ++ imm : BitVec 8)
  | .addrRb x => (0b000100#6 ++ x : BitVec 8)
  | .subrRb x => (0b000101#6 ++ x : BitVec 8)
  | .addiRb imm => (0b00011#5 ++ imm : BitVec 8)
  | .subiRb imm => (0b00011#5 ++ imm : BitVec 8)
  | .addrRo x => (0b001000#6 ++ x : BitVec 8)
  | .subrRo x => (0b001001#6 ++ x : BitVec 8)
  | .addiRo imm => (0b00101#5 ++ imm : BitVec 8)
  | .subiRo imm => (0b00101#5 ++ imm : BitVec 8)
  | .addrNone x => (0b001100#6 ++ x : BitVec 8)
  | .subrNone x => (0b001101#6 ++ x : BitVec 8)
  | .addiNone imm => (0b00111#5 ++ imm : BitVec 8)
  | .subiNone imm => (0b00111#5 ++ imm : BitVec 8)
  | .jc d sreg imm => (0b01#2 ++ destBits d ++ BitVec.ofBool sreg ++ imm : BitVec 8)
  | .j c d sreg imm => (0b1#1 ++ BitVec.ofBool c ++ destBits d ++ BitVec.ofBool sreg ++ imm : BitVec 8)

/-! ## The opcode table as masks and patterns -/

/-- A row of spec/opcode_table.json: a byte `b` belongs to it when `b &&& mask = pattern`. -/
structure OpcodeRow where
  mask    : Byte
  pattern : Byte
  deriving DecidableEq, Repr

/-- The row of an instruction. -/
def Instr.row : Instr → OpcodeRow
  | .addrRa _ => ⟨0xFC#8, 0x00#8⟩
  | .subrRa _ => ⟨0xFC#8, 0x04#8⟩
  | .addiRa _ => ⟨0xFC#8, 0x08#8⟩
  | .subiRa _ => ⟨0xFC#8, 0x0C#8⟩
  | .addrRb _ => ⟨0xFC#8, 0x10#8⟩
  | .subrRb _ => ⟨0xFC#8, 0x14#8⟩
  | .addiRb _ => ⟨0xFC#8, 0x18#8⟩
  | .subiRb _ => ⟨0xFC#8, 0x1C#8⟩
  | .addrRo _ => ⟨0xFC#8, 0x20#8⟩
  | .subrRo _ => ⟨0xFC#8, 0x24#8⟩
  | .addiRo _ => ⟨0xFC#8, 0x28#8⟩
  | .subiRo _ => ⟨0xFC#8, 0x2C#8⟩
  | .addrNone _ => ⟨0xFC#8, 0x30#8⟩
  | .subrNone _ => ⟨0xFC#8, 0x34#8⟩
  | .addiNone _ => ⟨0xFC#8, 0x38#8⟩
  | .subiNone _ => ⟨0xFC#8, 0x3C#8⟩
  | .jc _ _ _ => ⟨0xC0#8, 0x40#8⟩
  | .j _ _ _ _ => ⟨0x80#8, 0x80#8⟩

/-- The 18 rows, in the table's order. -/
def opcodeTable : List OpcodeRow :=
  [⟨0xFC#8, 0x00#8⟩, ⟨0xFC#8, 0x04#8⟩, ⟨0xFC#8, 0x08#8⟩, ⟨0xFC#8, 0x0C#8⟩,
   ⟨0xFC#8, 0x10#8⟩, ⟨0xFC#8, 0x14#8⟩, ⟨0xFC#8, 0x18#8⟩, ⟨0xFC#8, 0x1C#8⟩,
   ⟨0xFC#8, 0x20#8⟩, ⟨0xFC#8, 0x24#8⟩, ⟨0xFC#8, 0x28#8⟩, ⟨0xFC#8, 0x2C#8⟩,
   ⟨0xFC#8, 0x30#8⟩, ⟨0xFC#8, 0x34#8⟩, ⟨0xFC#8, 0x38#8⟩, ⟨0xFC#8, 0x3C#8⟩,
   ⟨0xC0#8, 0x40#8⟩, ⟨0x80#8, 0x80#8⟩]

/-- The byte lies in the row. -/
def OpcodeRow.matchesByte (r : OpcodeRow) (b : Byte) : Bool := b &&& r.mask == r.pattern

end Sys2Proof
end

