-- ==== Sys2Proof/Machine/Jump.lean ====
section
/-! DEFINITION. The two jumps (spec/41_jump.md R140 to R147). -/

namespace Sys2Proof.Machine

/-- J (R140, R146): PC <- zext(imm) and nothing else, whatever Carry holds. Its bits c and sreg are ignored; a
selector (1,0) still gives the RO observation (R145). -/
def execJ (_c : Bool) (d : Dest) (_sreg : Bool) (imm : Imm) (s : State) : Host.Outcome State Fault Refusal :=
  .next (jumpStep d imm s)

/-- JC (R141, R142, R147): taken when Carry is set; otherwise the ALU path with the byte's own fields, where S is
imm[2] (R69). -/
def execJc (d : Dest) (sreg : Bool) (imm : Imm) (s : State) : Host.Outcome State Fault Refusal :=
  if s.carry then .next (jumpStep d imm s)
  else .next (aluStep (opOfS (imm.getLsbD 2)) (operandOfSreg sreg imm) d s)

end Sys2Proof.Machine
end

