-- ==== Sys2Proof/Machine/Dispatch.lean ====
section
/-! DEFINITION. The dispatch: one arm per constructor of Instr, each one direct call of that instruction's meaning. -/

namespace Sys2Proof.Machine

def exec (i : Instr) (s : State) : Host.Outcome State Fault Refusal :=
  match i with
  | .addrRa x => Sys2Proof.Machine.execAddrRa x s
  | .subrRa x => Sys2Proof.Machine.execSubrRa x s
  | .addiRa imm => Sys2Proof.Machine.execAddiRa imm s
  | .subiRa imm => Sys2Proof.Machine.execSubiRa imm s
  | .addrRb x => Sys2Proof.Machine.execAddrRb x s
  | .subrRb x => Sys2Proof.Machine.execSubrRb x s
  | .addiRb imm => Sys2Proof.Machine.execAddiRb imm s
  | .subiRb imm => Sys2Proof.Machine.execSubiRb imm s
  | .addrRo x => Sys2Proof.Machine.execAddrRo x s
  | .subrRo x => Sys2Proof.Machine.execSubrRo x s
  | .addiRo imm => Sys2Proof.Machine.execAddiRo imm s
  | .subiRo imm => Sys2Proof.Machine.execSubiRo imm s
  | .addrNone x => Sys2Proof.Machine.execAddrNone x s
  | .subrNone x => Sys2Proof.Machine.execSubrNone x s
  | .addiNone imm => Sys2Proof.Machine.execAddiNone imm s
  | .subiNone imm => Sys2Proof.Machine.execSubiNone imm s
  | .jc d sreg imm => Sys2Proof.Machine.execJc d sreg imm s
  | .j c d sreg imm => Sys2Proof.Machine.execJ c d sreg imm s

end Sys2Proof.Machine
end

