-- ==== Sys2Proof/Machine/Run.lean ====
section
/-! DEFINITION. The run around the step: the halt of the core, the two run policies with the ceiling and the continue
signal, and the interface between the core and its host (spec/42_step.md, spec/70_reset_and_hazards.md R220, R222). -/

namespace Sys2Proof.Machine

/-! ## What the next step does -/

/-- `step_enable` (R170): under `Continuous` asserted until the ceiling, under `Stepped` the continue signal. -/
def stepEnable (s : State) : Bool :=
  match s.policy with
  | .continuous => s.steps < Config.stepCeiling
  | .stepped => 0 < s.continues

/-- Has the run ended: halted, stopped at the ceiling, or terminated by the host (R171)? -/
def runOver (s : State) : Bool := s.status == .halted || s.run != .active

/-- What a step that the host does not let run an instruction is: a stop under `Continuous`, a wait under `Stepped`
(R167). -/
def heldPhase (p : RunPolicy) : Phase :=
  match p with
  | .continuous => .ceiling
  | .stepped => .wait

/-- The halt check comes before every fetch, then the host's policy (R160, R163, R167). -/
def phase (s : State) : Phase :=
  if runOver s then .ended
  else if s.n ≤ s.pc then .halt
  else if stepEnable s then .execute
  else heldPhase s.policy

/-- The halt (R163): status <- Halted, and `FinalRO` is emitted. -/
def haltCore (s : State) : State := (s.setStatus .halted).emit (.finalRo s.ro)

/-- The ceiling stop (R167) for either value of `CEILING_REPORTS_FINAL_RO`: status stays Running. -/
def stopAtCeilingWith (report : Bool) (s : State) : State :=
  let t := s.setRun .ceilingStopped
  if report then t.emit (.finalRo s.ro) else t

/-- The ceiling stop under the OPEN parameter `CEILING_REPORTS_FINAL_RO` (R8, R167). -/
def stopAtCeiling (s : State) : State := stopAtCeilingWith Config.ceilingReportsFinalRo s

/-- The host's bookkeeping of an executed step: `Continuous` counts it, `Stepped` uses up its continue signal
(R167, R168). -/
def countStep (s : State) : State :=
  match s.policy with
  | .continuous => s.setSteps (s.steps + 1)
  | .stepped => s.setContinues (s.continues - 1)

/-! ## What the host can do (R169, R170, R172, R222) -/

/-- The run policy that the one-character host input selects (R169). -/
def policyOfInput (c : Char) : RunPolicy := if c = 'S' then .stepped else .continuous

/-- Boot (R222): the program file is loaded, the policy is chosen, and the state is created by the reset. -/
def boot (file : List Byte) (input : Char) : State :=
  (State.reset.setImem (Memory.load file)).setPolicy (policyOfInput input)

/-- The host gives one continue signal (R167). -/
def giveContinue (s : State) : State := s.setContinues (s.continues + 1)

/-- The host ends the process: no event, and the run is unfinished, not halted (R172). -/
def terminate (s : State) : State := if runOver s then s else s.setRun .terminated

/-- `fetch_addr` (R170): PC, presented when `PC < N`. -/
def fetchAddr (s : State) : Option Nat := if s.pc < s.n then some s.pc else none

/-- `halted` (R170): 1 once `status = Halted`. -/
def haltedOut (s : State) : Bool := s.status == .halted

/-! ## Making a state fetch a given byte next -/

/-- Where a program's byte goes for the next step to fetch it: at PC, or at 0 where PC lies beyond the buffer. -/
def placeAddr (s : State) : Nat := if s.pc < Config.bufferCapacity then s.pc else 0

/-- The host lets the next step run an instruction: nothing changes where it does already. -/
def enableStep (s : State) : State :=
  if stepEnable s then s
  else
    match s.policy with
    | .continuous => s.setSteps 0
    | .stepped => s.setContinues 1

/-- The state with byte b stored where the next step fetches, running and let run. -/
def placeNext (b : Byte) (s : State) : State :=
  enableStep ((((s.setImem (Memory.place s.imem (placeAddr s) b)).setPc (placeAddr s)).setStatus .running).setRun .active)

end Sys2Proof.Machine
end

