-- ==== Sys2Proof/Machine/Step.lean ====
section
/-! DEFINITION. One step of the machine, and the placing of an instruction where the next step fetches it. -/

namespace Sys2Proof.Machine

/-- Fetch at PC, decode, execute, and the host's bookkeeping (R160, R161, R168). -/
def executeNext (s : State) : Host.Outcome State Fault Refusal :=
  match fetchByte s with
  | none => .refused .fetchOutsideBuffer
  | some b =>
    match exec (decode b) s with
    | .next t => .next (countStep t)
    | .fault r => .fault r
    | .refused r => .refused r

/-- One step of a run: an instruction, or the halt, or the ceiling stop; a waiting core and a run that has ended stay
as they are (log entries 6 to 8). -/
def step (s : State) : Host.Outcome State Fault Refusal :=
  match phase s with
  | .ended => .next s
  | .halt => .next (haltCore s)
  | .execute => executeNext s
  | .ceiling => .next (stopAtCeiling s)
  | .wait => .next s

/-- s with the instruction byte w stored where the next step fetches it, the run going and that step let run, so that
`step` runs exactly that instruction (log entry 4). -/
def State.withFetchWord (s : State) (nbits w : Nat) : State := placeNext (BitVec.ofNat 8 (w % 2 ^ nbits)) s

end Sys2Proof.Machine
end

