-- ==== Sys2Proof/Machine/Assembler.lean ====
section
/-! DEFINITION. The assembler's table and what it does with a line (R77 to R80). The core does not run it: it says
which bytes programs are made of. Its file input and output are out of scope (R6). -/

namespace Sys2Proof.Machine

/-- A line of the assembler's table (R78); k is the digit of a ranged mnemonic. -/
inductive Mnemonic where
  | raPlusRb
  | rbPlusRb
  | raMinusRb
  | rbMinusRb
  | roMove
  | ra (k : Imm)
  | rb (k : Imm)
  | jc (k : Imm)
  | j (k : Imm)
  deriving DecidableEq, Repr

/-- Bit 3 of the byte of `JC=<k>`. DESIGN CHOICE (log entry 27): the spec disagrees with itself on k = 0, where R79,
D19 and spec/93_implementation_defined.md item 3 say that `JC=0` is the byte 0x70 of `J=0` and R8, R80 and D20 leave it
OPEN; the model follows R79, so bit 3 is 0 there. For k = 1..7 it is OPEN (log entry 3). -/
def jcBit3 (k : Imm) : Bool := if k = 0 then false else Config.jcByteBit3 k

/-- `JC_BYTE(k)` (R8, R79, R80): a byte in 0x70..0x7F whose bits 2:0 equal k; 0x70 for k = 0, otherwise OPEN (log
entries 3 and 27). -/
def jcByte (k : Imm) : Byte := (0b0111#4 ++ BitVec.ofBool (jcBit3 k) ++ k : BitVec 8)

/-- The byte of `J=<k>`, a set that is not contiguous; `J=0` is 0x70, which the core decodes as JC (R78, R79). -/
def jByte (k : Imm) : Byte :=
  match k.toNat with
  | 0 => 0x70#8
  | 1 => 0xB9#8
  | 2 => 0xB2#8
  | 3 => 0xBB#8
  | 4 => 0xBC#8
  | 5 => 0xBD#8
  | 6 => 0xBE#8
  | _ => 0xBF#8

/-- The byte a mnemonic assembles to (R78). -/
def assembleMnemonic (m : Mnemonic) : Byte :=
  match m with
  | .raPlusRb => 0x00#8
  | .rbPlusRb => 0x10#8
  | .raMinusRb => 0x04#8
  | .rbMinusRb => 0x14#8
  | .roMove => 0x20#8
  | .ra k => (0b00001#5 ++ k : BitVec 8)
  | .rb k => (0b00011#5 ++ k : BitVec 8)
  | .jc k => jcByte k
  | .j k => jByte k

/-- The decimal digit of k. -/
def digitOf (k : Imm) : String :=
  match k.toNat with
  | 0 => "0"
  | 1 => "1"
  | 2 => "2"
  | 3 => "3"
  | 4 => "4"
  | 5 => "5"
  | 6 => "6"
  | _ => "7"

/-- The line's spelling (R78; spec/92_eei_decisions.md D21). -/
def spelling (m : Mnemonic) : String :=
  match m with
  | .raPlusRb => "RA=RA+RB"
  | .rbPlusRb => "RB=RA+RB"
  | .raMinusRb => "RA=RA-RB"
  | .rbMinusRb => "RB=RA-RB"
  | .roMove => "RO=RA"
  | .ra k => "RA=" ++ digitOf k
  | .rb k => "RB=" ++ digitOf k
  | .jc k => "JC=" ++ digitOf k
  | .j k => "J=" ++ digitOf k

/-- Every digit of a ranged mnemonic. -/
def digits : List Imm := [0, 1, 2, 3, 4, 5, 6, 7]

/-- The whole table, in the order of R78. -/
def mnemonicTable : List Mnemonic :=
  [.raPlusRb, .rbPlusRb, .raMinusRb, .rbMinusRb, .roMove] ++ digits.map .ra ++ digits.map .rb ++ digits.map .jc
    ++ digits.map .j

/-- The mnemonic a line is: exact string equality, not prefix (R77). -/
def readLine (line : String) : Option Mnemonic := mnemonicTable.find? (fun m => spelling m == line)

/-- The byte of a line; none for a line that the table does not hold. -/
def assembleLine (line : String) : Option Byte := (readLine line).map assembleMnemonic

/-- The byte stream of a source file: a line that is rejected emits no byte, and assembly goes on (R77). A blank line is
a rejected line: DESIGN CHOICE (log entry 28). -/
def assemble (lines : List String) : List Byte := lines.filterMap assembleLine

/-- The lines that are reported as rejected, in order (R77, R201). DESIGN CHOICE (log entry 28): a blank line and a
comment line are lines outside the table like any other, so they are rejected and reported; the spec says nothing of
them (spec/91_not_in_source.md, 30_encoding.md entry). -/
def rejectedLines (lines : List String) : List String := lines.filter (fun line => (assembleLine line).isNone)

end Sys2Proof.Machine
end

