-- ==== Sys2Proof/Machine/Pseudocode.lean ====
section
/-! DEFINITION. The step of R161 and R112 read off the spec's pseudocode, over the decoded fields and the integers. It is
no part of the machine: it is the clear form that the eighteen meanings are compared with. -/

namespace Sys2Proof.Machine

/-- Is this step a jump step (R14): J, or C with Carry set (R161)? -/
def jumpTaken (f : Fields) (s : State) : Bool := f.j || (f.c && s.carry)

/-- The integers `a` and `b` of R112. -/
def pseudoOperands (f : Fields) (s : State) : Nat × Nat :=
  (s.ra.toNat, if f.sreg then f.imm.toNat else s.rb.toNat)

/-- The result r of the ALU path, by R103's laws: the sum or difference mod 16. -/
def pseudoResult (f : Fields) (s : State) : Nat :=
  let (a, b) := pseudoOperands f s
  if f.s then (a + 16 - b) % 16 else (a + b) % 16

/-- The carry-out c of the ALU path, by R103's laws. -/
def pseudoCarry (f : Fields) (s : State) : Bool :=
  let (a, b) := pseudoOperands f s
  if f.s then a < b else 16 ≤ a + b

/-- `alu_path(i)` of R112. -/
def pseudoAluPath (f : Fields) (s : State) : State :=
  let r := pseudoResult f s
  let fired := f.d1 && !f.d0 && decide (13 < r)
  { s with
    carry := if f.d1 && f.d0 && !s.d11UpdatesCarry then s.carry else pseudoCarry f s
    ra := if fired then 0 else if !f.d1 && !f.d0 then BitVec.ofNat 4 r else s.ra
    rb := if fired then 1 else if !f.d1 && f.d0 then BitVec.ofNat 4 r else s.rb
    ro := if fired then 0 else if f.d1 && !f.d0 then BitVec.ofNat 4 r else s.ro
    pc := if fired && s.ovfPc == .zero then 0 else s.pc + 1
    events := if fired then s.events ++ [.overflowReset] else s.events }

/-- `step()` of R161, less the fetch. -/
def pseudoStep (f : Fields) (s : State) : State :=
  let t := if jumpTaken f s then { s with pc := f.imm.toNat } else pseudoAluPath f s
  if f.d1 && !f.d0 then { t with events := t.events ++ [.ro t.ro] } else t

end Sys2Proof.Machine
end

