-- ==== Sys2Proof/Safety.lean ====
section
/-! DEFINITION. What counts as a good state and a good run, in the terms the claims use. -/

namespace Sys2Proof.Machine

/-- The value an event reports is in 0..13 (R166). -/
def Event.inRange : Event → Bool
  | .ro v => v.toNat ≤ 13
  | .overflowReset => true
  | .finalRo v => v.toNat ≤ 13

/-- The invariant of a run: R36, the buffer's canonical form (R40), the ranges of the reported values (R166), the ceiling
of a `Continuous` run (R167), and what an ended run looks like (R163, R171). That Carry is one bit and RA, RB are in 0..15
holds by their types. -/
structure State.Inv (s : State) : Prop where
  imem_wf : Memory.wf s.imem
  pc_range : s.pc ≤ 256
  ro_range : s.ro.toNat ≤ 13
  events_range : ∀ e ∈ s.events, e.inRange = true
  steps_bounded : s.policy = .continuous → s.steps ≤ 50
  halted_outside : s.status = .halted → s.n ≤ s.pc
  ceiling_stop : s.run = .ceilingStopped →
    s.policy = .continuous ∧ s.steps = 50 ∧ s.status = .running ∧ s.pc < s.n

/-- The state that a step leaves which writes r to RO with carry-out c (R110, R111, R128, R164): where r is 14 or 15 the
register file is re-seeded and `OverflowReset` comes before `RO(0)`. -/
def afterRoWrite (r : Nibble) (c : Bool) (s : State) : State :=
  if 13 < r.toNat then
    { s with
      ra := 0, rb := 1, ro := 0, carry := c
      pc := match s.ovfPc with
        | .increment => s.pc + 1
        | .zero => 0
      events := s.events ++ [.overflowReset, .ro 0] }
  else { s with ro := r, carry := c, pc := s.pc + 1, events := s.events ++ [.ro r] }

/-- The host lets the next step run an instruction (R167, R170). -/
abbrev State.letRun (s : State) : Prop :=
  (s.policy = .continuous ∧ s.steps < 50) ∨ (s.policy = .stepped ∧ 0 < s.continues)

/-- A run ends by the halt of the core: the first of R171's three ways. -/
abbrev State.endedByHalt (s : State) : Prop := s.status = .halted ∧ s.n ≤ s.pc

/-- A run ends at the ceiling: the second of R171's three ways, in which status stays Running. -/
abbrev State.endedAtCeiling (s : State) : Prop :=
  s.status = .running ∧ s.run = .ceilingStopped ∧ s.steps = 50 ∧ s.pc < s.n

end Sys2Proof.Machine
end

