-- ==== Sys2Proof/Certificates/Slice0/Obligations.lean ====
section
/-! DEFINITION. The statements for the provers, in the order of the spec's files. -/

open Sys2Proof Sys2Proof.Machine

/-! ## State, reset and invariants (spec/10_state.md, spec/70_reset_and_hazards.md) -/

/-- R35: the state at the start of a run. -/
def Obligations.ResetGivesRunStartValues : Prop :=
  State.reset.ra = 0 ∧ State.reset.rb = 1 ∧ State.reset.ro = 0 ∧ State.reset.pc = 0 ∧
    State.reset.carry = false ∧ State.reset.status = .running

/-- The invariant of spec/10_state.md R36 (marked derived there) holds at reset. That the reset buffer is empty is the model's choice (log entry 4). -/
def Obligations.ResetMeetsRunInvariant : Prop :=
  State.Inv State.reset

/-- R36 with R166, R167 and R171: what holds in every reachable state is kept by every step from every state that has it. It rests on the spec's own decisions D3 (the range of PC) and D9 (the guard compares the masked value). -/
def Obligations.EveryStepKeepsRunInvariant : Prop :=
  ∀ s t : State, State.Inv s → step s = .next t → State.Inv t

/-- R41 and R222: loading, truncation to 256 bytes (the spec's decision D10), and the reset. -/
def Obligations.BootMeetsRunInvariantAndLoadsProgram : Prop :=
  ∀ (file : List Byte) (c : Char),
    State.Inv (boot file c) ∧ (boot file c).n = min file.length 256 ∧
    (∀ a, a < (boot file c).n → Memory.read (boot file c).imem a = file[a]?) ∧
    (∀ a, (boot file c).n ≤ a → Memory.read (boot file c).imem a = none) ∧
    boot file c = { State.reset with imem := (boot file c).imem, policy := (boot file c).policy }

/-- R169 (the spec marks its place as a host input as its own decision, D18). -/
def Obligations.ModeCharacterSelectsPolicy : Prop :=
  ∀ (file : List Byte) (c : Char),
    (boot file 'R').policy = .continuous ∧ (boot file 'S').policy = .stepped ∧
    (c ≠ 'S' → (boot file c).policy = .continuous)

/-- R28: the only ways PC changes. The guard's firing is read off the `OverflowReset` event it emits (R165). -/
def Obligations.PcChangesOnlyAsListed : Prop :=
  State.reset.pc = 0 ∧
  ∀ s t : State, step s = .next t →
    (phase s ≠ .execute → t.pc = s.pc) ∧
    ∀ b : Byte, phase s = .execute → fetchByte s = some b →
      ((decodeFields b).j = true ∨ ((decodeFields b).c = true ∧ s.carry = true) →
        t.pc = (decodeFields b).imm.toNat ∧ t.pc ≤ 7) ∧
      (¬((decodeFields b).j = true ∨ ((decodeFields b).c = true ∧ s.carry = true)) →
        t.pc = if s.ovfPc = .zero ∧ Event.overflowReset ∈ t.events.drop s.events.length then 0 else s.pc + 1)

/-- R22 to R24 and R108 to R110, with R144 for jump steps: who writes the general registers. The (1,1) clause rests on the spec's decision D4 and the guard clause on D9. -/
def Obligations.RegistersWrittenOnlyThroughSelector : Prop :=
  ∀ (b : Byte) (s t : State), exec (decode b) s = .next t →
    (jumpTaken (decodeFields b) s = true → t.ra = s.ra ∧ t.rb = s.rb ∧ t.ro = s.ro ∧ t.carry = s.carry) ∧
    (jumpTaken (decodeFields b) s = false →
      match (decodeFields b).d1, (decodeFields b).d0 with
      | false, false => t.rb = s.rb ∧ t.ro = s.ro
      | false, true => t.ra = s.ra ∧ t.ro = s.ro
      | true, false =>
        (t.ra = s.ra ∧ t.rb = s.rb ∧ t.ro.toNat ≤ 13 ∧ Event.overflowReset ∉ t.events.drop s.events.length) ∨
        (t.ra = 0 ∧ t.rb = 1 ∧ t.ro = 0 ∧ Event.overflowReset ∈ t.events.drop s.events.length)
      | true, true => t.ra = s.ra ∧ t.rb = s.rb ∧ t.ro = s.ro)

/-- R30, R31 and R107. That the guard leaves Carry alone is the spec's decision D8, the (1,1) case its decision D4. -/
def Obligations.CarryWrittenOnlyOnAluPath : Prop :=
  ∀ (b : Byte) (s t : State), exec (decode b) s = .next t →
    t.carry ≠ s.carry →
      jumpTaken (decodeFields b) s = false ∧
      ((decodeFields b).d1 = true → (decodeFields b).d0 = true → s.d11UpdatesCarry = true) ∧
      t.carry = pseudoCarry (decodeFields b) s

/-- R31 and R102: the ALU has no carry-in, so the Carry an instruction leaves is either the one it computes, whatever Carry was, or the Carry it found. -/
def Obligations.CarryReadOnlyByJc : Prop :=
  ∀ (i : Instr) (s t : State) (c : Bool), (∀ d sreg imm, i ≠ .jc d sreg imm) → exec i s = .next t →
    ∃ c' : Bool, exec i { s with carry := c } = .next { t with carry := c' } ∧
      (c' = t.carry ∨ (c' = c ∧ t.carry = s.carry))

/-- R24: RO is read only by the guard, in the step that wrote it, and by the observations. -/
def Obligations.RoIsNeverAnOperand : Prop :=
  ∀ (i : Instr) (s t : State) (v : Nibble), exec i s = .next t →
    ∃ t', exec i { s with ro := v } = .next t' ∧
      t'.ra = t.ra ∧ t'.rb = t.rb ∧ t'.carry = t.carry ∧ t'.pc = t.pc

/-! ## The instruction buffer (spec/20_memory.md) -/

/-- R53 and R47: nothing writes IMEM during a run. -/
def Obligations.NoStepWritesInstructionBuffer : Prop :=
  ∀ s t : State, step s = .next t →
    t.imem = s.imem ∧ t.n = s.n ∧ ∀ a, Memory.read t.imem a = Memory.read s.imem a

/-- R200 and R201 (D13): nothing raises an exception, and out-of-range access is structurally prevented (R42). -/
def Obligations.StepNeverFaultsOrRefuses : Prop :=
  ∀ s : State, Memory.wf s.imem → ∃ t, step s = .next t

/-! ## Encoding (spec/30_encoding.md) -/

/-- Decoder vectors of spec/95_test_vectors.md section 2. -/
def Obligations.TableWordsDecode : Prop :=
  decode 0b00000011#8 = .addrRa 3 ∧ decode 0b00010100#8 = .subrRb 0 ∧ decode 0b00001011#8 = .addiRa 3 ∧
    decode 0b00101100#8 = .subiRo 4 ∧ decode 0b00111111#8 = .subiNone 7 ∧
    decode 0b01011010#8 = .jc .rb true 2 ∧ decode 0b10100101#8 = .j false .ro false 5 ∧
    decode 0b11111111#8 = .j true .discard true 7

/-- R62, R63 and R68: the decoded record, over the byte's number instead of its bits. -/
def Obligations.FieldsAreTheBitsOfTheByte : Prop :=
  ∀ b : Byte,
    (decodeFields b).j = decide (b.toNat / 128 % 2 = 1) ∧ (decodeFields b).c = decide (b.toNat / 64 % 2 = 1) ∧
    (decodeFields b).d1 = decide (b.toNat / 32 % 2 = 1) ∧ (decodeFields b).d0 = decide (b.toNat / 16 % 2 = 1) ∧
    (decodeFields b).sreg = decide (b.toNat / 8 % 2 = 1) ∧ (decodeFields b).s = decide (b.toNat / 4 % 2 = 1) ∧
    (decodeFields b).imm.toNat = b.toNat % 8

/-- R69 (marked derived there): bit 2 is both S and imm[2]. -/
def Obligations.SIsTheTopBitOfImm : Prop :=
  ∀ b : Byte,
    (decodeFields b).s = decide (4 ≤ (decodeFields b).imm.toNat) ∧
    ((decodeFields b).j = false → (decodeFields b).c = false → (decodeFields b).sreg = true →
      ((decodeFields b).imm.toNat ≤ 3 →
        decode b = .addiRa (decodeFields b).imm ∨ decode b = .addiRb (decodeFields b).imm ∨
        decode b = .addiRo (decodeFields b).imm ∨ decode b = .addiNone (decodeFields b).imm) ∧
      (4 ≤ (decodeFields b).imm.toNat →
        decode b = .subiRa (decodeFields b).imm ∨ decode b = .subiRb (decodeFields b).imm ∨
        decode b = .subiRo (decodeFields b).imm ∨ decode b = .subiNone (decodeFields b).imm))

/-- R67, R72 and R74: the 18 entries cover all 256 bytes, each exactly once. -/
def Obligations.EveryByteIsExactlyOneRow : Prop :=
  ∀ b : Byte, (decode b).wellFormed = true ∧ encode (decode b) = b ∧
    opcodeTable.filter (fun r => r.matchesByte b) = [(decode b).row]

/-- R61, R71 and R72: decoding and encoding agree. -/
def Obligations.DecodeUndoesEncode : Prop :=
  ∀ i : Instr, i.wellFormed = true → decode (encode i) = i

/-- R75 (marked derived there): every value of the bits an instruction ignores gives the same behaviour. -/
def Obligations.IgnoredBitsDoNotMatter : Prop :=
  ∀ (s : State) (x y : BitVec 2),
    exec (.addrRa x) s = exec (.addrRa y) s ∧ exec (.subrRa x) s = exec (.subrRa y) s ∧
    exec (.addrRb x) s = exec (.addrRb y) s ∧ exec (.subrRb x) s = exec (.subrRb y) s ∧
    exec (.addrRo x) s = exec (.addrRo y) s ∧ exec (.subrRo x) s = exec (.subrRo y) s ∧
    exec (.addrNone x) s = exec (.addrNone y) s ∧ exec (.subrNone x) s = exec (.subrNone y) s ∧
    ∀ (c c' g g' : Bool) (d : Dest) (imm : Imm), exec (.j c d g imm) s = exec (.j c' d g' imm) s

/-! ## The assembler's table (spec/30_encoding.md section 6) -/

/-- R77 and R78: exact string equality against a fixed table. The spellings of the ranged mnemonics are the spec's decision D21. -/
def Obligations.AssemblerReadsEachSpelling : Prop :=
  ∀ m : Mnemonic, readLine (spelling m) = some m

/-- R78 to R80: holds for every choice of the OPEN parameter JC_BYTE (log entry 3). The decoding of 0x70 is the spec's decision D19. That JC=0 is 0x70 too is R79's word, which the model follows where R8 and R80 leave it OPEN (log entry 27). -/
def Obligations.JumpMnemonicsDecode : Prop :=
  (∀ k : Imm, ∃ sreg, decode (assembleMnemonic (.jc k)) = .jc .discard sreg k) ∧
    assembleMnemonic (.j 0) = 0x70#8 ∧ assembleMnemonic (.jc 0) = assembleMnemonic (.j 0) ∧
    decode (assembleMnemonic (.j 0)) = .jc .discard false 0 ∧
    ∀ k : Imm, k ≠ 0 → ∃ c sreg, decode (assembleMnemonic (.j k)) = .j c .discard sreg k

/-- R77: a rejected line is skipped, so later instructions move down by one. That a blank line or a comment line, whose handling the spec does not specify, is rejected like any other is the model's choice (log entry 28), and so is reporting a line by its own text (log entry 19). -/
def Obligations.RejectedLineEmitsNoByte : Prop :=
  ∀ (before after : List String) (line : String), (∀ m ∈ mnemonicTable, spelling m ≠ line) →
    assembleLine line = none ∧ line ∈ rejectedLines (before ++ line :: after) ∧
    assemble (before ++ line :: after) = assemble before ++ assemble after

/-! ## The ALU (spec/40_alu.md section 1) -/

/-- R100: add. -/
def Obligations.AluAddWrapsWithCarry : Prop :=
  ∀ a b : Nibble,
    (15 < a.toNat + b.toNat →
      (alu .add a b).1.toNat = a.toNat + b.toNat - 16 ∧ (alu .add a b).2 = true) ∧
    (a.toNat + b.toNat ≤ 15 → (alu .add a b).1.toNat = a.toNat + b.toNat ∧ (alu .add a b).2 = false)

/-- R101: subtract; the carry is a borrow. -/
def Obligations.AluSubBorrows : Prop :=
  ∀ a b : Nibble,
    (a.toNat < b.toNat → (alu .sub a b).1.toNat = a.toNat + 16 - b.toNat ∧ (alu .sub a b).2 = true) ∧
    (b.toNat ≤ a.toNat → (alu .sub a b).1.toNat = a.toNat - b.toNat ∧ (alu .sub a b).2 = false)

/-! ## The sixteen ALU-class instructions (spec/40_alu.md section 5) -/

/-- R120: ADDR.RA, from its bits to its whole next state. `x` is bits 1..0 of the byte. -/
def Obligations.AddRegisterIntoRa : Prop :=
  ∀ (x : BitVec 2) (s : State),
    decode (0b000000#6 ++ x : BitVec 8) = .addrRa x ∧
    assembleLine "RA=RA+RB" = some 0x00#8 ∧
    exec (.addrRa x) s =
      .next { s with ra := BitVec.ofNat 4 (s.ra.toNat + s.rb.toNat), carry := decide (15 < s.ra.toNat + s.rb.toNat), pc := s.pc + 1 }

/-- R121: SUBR.RA, from its bits to its whole next state. `x` is bits 1..0 of the byte. -/
def Obligations.SubRegisterIntoRa : Prop :=
  ∀ (x : BitVec 2) (s : State),
    decode (0b000001#6 ++ x : BitVec 8) = .subrRa x ∧
    assembleLine "RA=RA-RB" = some 0x04#8 ∧
    exec (.subrRa x) s =
      .next { s with ra := BitVec.ofNat 4 (16 + s.ra.toNat - s.rb.toNat), carry := decide (s.ra.toNat < s.rb.toNat), pc := s.pc + 1 }

/-- R122: ADDI.RA, from its bits to its whole next state. `k` is bits 1..0 of the byte. -/
def Obligations.AddImmIntoRa : Prop :=
  ∀ (k : BitVec 2) (s : State),
    decode (0b000010#6 ++ k : BitVec 8) = .addiRa (k.setWidth 3) ∧
    assembleLine "RA=0" = some 0x08#8 ∧ assembleLine "RA=1" = some 0x09#8 ∧
    assembleLine "RA=2" = some 0x0A#8 ∧ assembleLine "RA=3" = some 0x0B#8 ∧
    exec (.addiRa (k.setWidth 3)) s =
      .next { s with ra := BitVec.ofNat 4 (s.ra.toNat + k.toNat), carry := decide (15 < s.ra.toNat + k.toNat), pc := s.pc + 1 }

/-- R123: SUBI.RA, from its bits to its whole next state. `k` is bits 1..0 of the byte. -/
def Obligations.SubImmIntoRa : Prop :=
  ∀ (k : BitVec 2) (s : State),
    decode (0b000011#6 ++ k : BitVec 8) = .subiRa (4 + k.setWidth 3) ∧
    assembleLine "RA=4" = some 0x0C#8 ∧ assembleLine "RA=5" = some 0x0D#8 ∧
    assembleLine "RA=6" = some 0x0E#8 ∧ assembleLine "RA=7" = some 0x0F#8 ∧
    exec (.subiRa (4 + k.setWidth 3)) s =
      .next { s with ra := BitVec.ofNat 4 (16 + s.ra.toNat - (4 + k.toNat)), carry := decide (s.ra.toNat < (4 + k.toNat)), pc := s.pc + 1 }

/-- R124: ADDR.RB, from its bits to its whole next state. `x` is bits 1..0 of the byte. -/
def Obligations.AddRegisterIntoRb : Prop :=
  ∀ (x : BitVec 2) (s : State),
    decode (0b000100#6 ++ x : BitVec 8) = .addrRb x ∧
    assembleLine "RB=RA+RB" = some 0x10#8 ∧
    exec (.addrRb x) s =
      .next { s with rb := BitVec.ofNat 4 (s.ra.toNat + s.rb.toNat), carry := decide (15 < s.ra.toNat + s.rb.toNat), pc := s.pc + 1 }

/-- R125: SUBR.RB, from its bits to its whole next state. `x` is bits 1..0 of the byte. -/
def Obligations.SubRegisterIntoRb : Prop :=
  ∀ (x : BitVec 2) (s : State),
    decode (0b000101#6 ++ x : BitVec 8) = .subrRb x ∧
    assembleLine "RB=RA-RB" = some 0x14#8 ∧
    exec (.subrRb x) s =
      .next { s with rb := BitVec.ofNat 4 (16 + s.ra.toNat - s.rb.toNat), carry := decide (s.ra.toNat < s.rb.toNat), pc := s.pc + 1 }

/-- R126: ADDI.RB, from its bits to its whole next state. `k` is bits 1..0 of the byte. -/
def Obligations.AddImmIntoRb : Prop :=
  ∀ (k : BitVec 2) (s : State),
    decode (0b000110#6 ++ k : BitVec 8) = .addiRb (k.setWidth 3) ∧
    assembleLine "RB=0" = some 0x18#8 ∧ assembleLine "RB=1" = some 0x19#8 ∧
    assembleLine "RB=2" = some 0x1A#8 ∧ assembleLine "RB=3" = some 0x1B#8 ∧
    exec (.addiRb (k.setWidth 3)) s =
      .next { s with rb := BitVec.ofNat 4 (s.ra.toNat + k.toNat), carry := decide (15 < s.ra.toNat + k.toNat), pc := s.pc + 1 }

/-- R127: SUBI.RB, from its bits to its whole next state. `k` is bits 1..0 of the byte. -/
def Obligations.SubImmIntoRb : Prop :=
  ∀ (k : BitVec 2) (s : State),
    decode (0b000111#6 ++ k : BitVec 8) = .subiRb (4 + k.setWidth 3) ∧
    assembleLine "RB=4" = some 0x1C#8 ∧ assembleLine "RB=5" = some 0x1D#8 ∧
    assembleLine "RB=6" = some 0x1E#8 ∧ assembleLine "RB=7" = some 0x1F#8 ∧
    exec (.subiRb (4 + k.setWidth 3)) s =
      .next { s with rb := BitVec.ofNat 4 (16 + s.ra.toNat - (4 + k.toNat)), carry := decide (s.ra.toNat < (4 + k.toNat)), pc := s.pc + 1 }

/-- R128: ADDR.RO, from its bits to its whole next state, for both values of `OVF_PC`. It rests on the spec's own decisions D5, D7, D8 and D9. -/
def Obligations.AddRegisterIntoRo : Prop :=
  ∀ (x : BitVec 2) (s : State),
    decode (0b001000#6 ++ x : BitVec 8) = .addrRo x ∧
    assembleLine "RO=RA" = some 0x20#8 ∧
    exec (.addrRo x) s =
      .next (afterRoWrite (BitVec.ofNat 4 (s.ra.toNat + s.rb.toNat)) (decide (15 < s.ra.toNat + s.rb.toNat)) s)

/-- R129: SUBR.RO, from its bits to its whole next state, for both values of `OVF_PC`. It rests on the spec's own decisions D5, D7, D8 and D9. -/
def Obligations.SubRegisterIntoRo : Prop :=
  ∀ (x : BitVec 2) (s : State),
    decode (0b001001#6 ++ x : BitVec 8) = .subrRo x ∧
    (∀ m : Mnemonic, assembleMnemonic m ≠ (0b001001#6 ++ x : BitVec 8)) ∧
    exec (.subrRo x) s =
      .next (afterRoWrite (BitVec.ofNat 4 (16 + s.ra.toNat - s.rb.toNat)) (decide (s.ra.toNat < s.rb.toNat)) s)

/-- R130: ADDI.RO, from its bits to its whole next state, for both values of `OVF_PC`. It rests on the spec's own decisions D5, D7, D8 and D9. -/
def Obligations.AddImmIntoRo : Prop :=
  ∀ (k : BitVec 2) (s : State),
    decode (0b001010#6 ++ k : BitVec 8) = .addiRo (k.setWidth 3) ∧
    (∀ m : Mnemonic, assembleMnemonic m ≠ (0b001010#6 ++ k : BitVec 8)) ∧
    exec (.addiRo (k.setWidth 3)) s =
      .next (afterRoWrite (BitVec.ofNat 4 (s.ra.toNat + k.toNat)) (decide (15 < s.ra.toNat + k.toNat)) s)

/-- R131: SUBI.RO, from its bits to its whole next state, for both values of `OVF_PC`. It rests on the spec's own decisions D5, D7, D8 and D9. -/
def Obligations.SubImmIntoRo : Prop :=
  ∀ (k : BitVec 2) (s : State),
    decode (0b001011#6 ++ k : BitVec 8) = .subiRo (4 + k.setWidth 3) ∧
    (∀ m : Mnemonic, assembleMnemonic m ≠ (0b001011#6 ++ k : BitVec 8)) ∧
    exec (.subiRo (4 + k.setWidth 3)) s =
      .next (afterRoWrite (BitVec.ofNat 4 (16 + s.ra.toNat - (4 + k.toNat))) (decide (s.ra.toNat < (4 + k.toNat))) s)

/-- R132: ADDR.NONE, from its bits to its whole next state, for both values of `D11_UPDATES_CARRY`. It rests on the spec's own decision D4. -/
def Obligations.AddRegisterDiscarded : Prop :=
  ∀ (x : BitVec 2) (s : State),
    decode (0b001100#6 ++ x : BitVec 8) = .addrNone x ∧
    (∀ m : Mnemonic, assembleMnemonic m ≠ (0b001100#6 ++ x : BitVec 8)) ∧
    exec (.addrNone x) s =
      .next { s with carry := if s.d11UpdatesCarry then decide (15 < s.ra.toNat + s.rb.toNat) else s.carry, pc := s.pc + 1 }

/-- R133: SUBR.NONE, from its bits to its whole next state, for both values of `D11_UPDATES_CARRY`. It rests on the spec's own decision D4. -/
def Obligations.SubRegisterDiscarded : Prop :=
  ∀ (x : BitVec 2) (s : State),
    decode (0b001101#6 ++ x : BitVec 8) = .subrNone x ∧
    (∀ m : Mnemonic, assembleMnemonic m ≠ (0b001101#6 ++ x : BitVec 8)) ∧
    exec (.subrNone x) s =
      .next { s with carry := if s.d11UpdatesCarry then decide (s.ra.toNat < s.rb.toNat) else s.carry, pc := s.pc + 1 }

/-- R134: ADDI.NONE, from its bits to its whole next state, for both values of `D11_UPDATES_CARRY`. It rests on the spec's own decision D4. -/
def Obligations.AddImmDiscarded : Prop :=
  ∀ (k : BitVec 2) (s : State),
    decode (0b001110#6 ++ k : BitVec 8) = .addiNone (k.setWidth 3) ∧
    (∀ m : Mnemonic, assembleMnemonic m ≠ (0b001110#6 ++ k : BitVec 8)) ∧
    exec (.addiNone (k.setWidth 3)) s =
      .next { s with carry := if s.d11UpdatesCarry then decide (15 < s.ra.toNat + k.toNat) else s.carry, pc := s.pc + 1 }

/-- R135: SUBI.NONE, from its bits to its whole next state, for both values of `D11_UPDATES_CARRY`. It rests on the spec's own decision D4. -/
def Obligations.SubImmDiscarded : Prop :=
  ∀ (k : BitVec 2) (s : State),
    decode (0b001111#6 ++ k : BitVec 8) = .subiNone (4 + k.setWidth 3) ∧
    (∀ m : Mnemonic, assembleMnemonic m ≠ (0b001111#6 ++ k : BitVec 8)) ∧
    exec (.subiNone (4 + k.setWidth 3)) s =
      .next { s with carry := if s.d11UpdatesCarry then decide (s.ra.toNat < (4 + k.toNat)) else s.carry, pc := s.pc + 1 }

/-! ## The two jumps (spec/41_jump.md) -/

/-- R140: the unconditional jump. Its event is `JumpsEmitRoBySelector`. -/
def Obligations.JumpSetsOnlyPc : Prop :=
  ∀ (c g : Bool) (d : Dest) (imm : Imm) (s : State),
    decode (0b1#1 ++ BitVec.ofBool c ++ destBits d ++ BitVec.ofBool g ++ imm : BitVec 8) = .j c d g imm ∧
    ∃ es, exec (.j c d g imm) s = .next { s with pc := imm.toNat, events := es }

/-- R141: the taken conditional jump, and which Carry it reads. Its event is `JumpsEmitRoBySelector`. -/
def Obligations.TakenJcSetsOnlyPc : Prop :=
  (∀ (g : Bool) (d : Dest) (imm : Imm) (s : State),
    decode (0b01#2 ++ destBits d ++ BitVec.ofBool g ++ imm : BitVec 8) = .jc d g imm ∧
    (s.carry = true → ∃ es, exec (.jc d g imm) s = .next { s with pc := imm.toNat, carry := true, events := es })) ∧
  State.reset.carry = false ∧
  ∀ s t : State, step s = .next t →
    (∀ b, phase s = .execute → fetchByte s = some b → jumpTaken (decodeFields b) s = true) → t.carry = s.carry

/-- R145 and R164: the condition is the decoded selector alone (the spec's decision D7). -/
def Obligations.JumpsEmitRoBySelector : Prop :=
  ∀ (c g : Bool) (d : Dest) (imm : Imm) (s : State),
    exec (.j c d g imm) s =
      .next { s with pc := imm.toNat, events := if d = .ro then s.events ++ [.ro s.ro] else s.events } ∧
    (s.carry = true → exec (.jc d g imm) s =
      .next { s with pc := imm.toNat, events := if d = .ro then s.events ++ [.ro s.ro] else s.events })

/-- R142 and R147: the not-taken JC (the spec's decision D6). -/
def Obligations.NotTakenJcRunsItsAluPath : Prop :=
  ∀ (g : Bool) (d : Dest) (imm : Imm) (s : State), s.carry = false →
    exec (.jc d g imm) s = exec (decode (encode (.jc d g imm) &&& 0x3F#8)) s ∧
    ∃ t, exec (.jc d g imm) s = .next t

/-- R142, first consequence: what the assembler's JC bytes do when not taken (the spec's decisions D4 and D6). -/
def Obligations.NotTakenAssemblerJcWritesOnlyCarry : Prop :=
  ∀ (x : BitVec 2) (s : State), s.carry = false →
    exec (decode (0b011100#6 ++ x : BitVec 8)) s =
      .next { s with pc := s.pc + 1, carry := s.d11UpdatesCarry && decide (15 < s.ra.toNat + s.rb.toNat) } ∧
    exec (decode (0b011101#6 ++ x : BitVec 8)) s =
      .next { s with pc := s.pc + 1, carry := s.d11UpdatesCarry && decide (s.ra.toNat < s.rb.toNat) } ∧
    exec (decode (0b011110#6 ++ x : BitVec 8)) s =
      .next { s with pc := s.pc + 1, carry := s.d11UpdatesCarry && decide (15 < s.ra.toNat + x.toNat) } ∧
    exec (decode (0b011111#6 ++ x : BitVec 8)) s =
      .next { s with pc := s.pc + 1, carry := s.d11UpdatesCarry && decide (s.ra.toNat < 4 + x.toNat) }

/-! ## The step and the run (spec/42_step.md, spec/60_exceptions.md) -/

/-- R161 and R112: one uniform step over the decoded record. It rests on the spec's decisions D4 to D9 where those rules do. -/
def Obligations.MeaningsRefineStepPseudocode : Prop :=
  ∀ (b : Byte) (s : State), exec (decode b) s = .next (pseudoStep (decodeFields b) s)

/-- R113 for the ALU path; for J and the taken JC it rests on R200, the spec's own decision D13 (log entry 17). -/
def Obligations.EveryInstructionCompletes : Prop :=
  ∀ (i : Instr) (s : State), ∃ t, exec i s = .next t

/-- R53, R221 and R166: the frame that all eighteen instructions share. -/
def Obligations.InstructionsKeepBufferStatusAndHost : Prop :=
  ∀ (i : Instr) (s t : State), exec i s = .next t →
    (∀ a, Memory.read t.imem a = Memory.read s.imem a) ∧ t.imem = s.imem ∧ t.status = s.status ∧
    t.ovfPc = s.ovfPc ∧ t.d11UpdatesCarry = s.d11UpdatesCarry ∧ t.policy = s.policy ∧ t.steps = s.steps ∧
    t.continues = s.continues ∧ t.run = s.run ∧ ∃ es, t.events = s.events ++ es ∧ es.length ≤ 2

/-- R160: when a step is possible and what it runs. What stands around it is the model's choice: that a Stepped step uses up one continue signal of a count (log entry 8), that the counter moves under Continuous only (log entry 21), and what step answers where no instruction runs (log entries 6 and 7). -/
def Obligations.StepRunsDecodedInstruction : Prop :=
  (∀ (s t : State) (b : Byte), s.status = .running → s.run = .active → s.pc < s.n →
    Memory.read s.imem s.pc = some b → s.letRun → exec (decode b) s = .next t →
    step s = .next (match s.policy with
      | .continuous => { t with steps := t.steps + 1 }
      | .stepped => { t with continues := t.continues - 1 })) ∧
  (∀ s : State, s.status ≠ .running ∨ s.n ≤ s.pc →
    ∃ t, step s = .next t ∧ t.ra = s.ra ∧ t.rb = s.rb ∧ t.ro = s.ro ∧ t.pc = s.pc ∧ t.carry = s.carry)

/-- The model's own way of placing a program byte (log entries 4 and 23), which stands for the load of R41. -/
def Obligations.PlacedByteIsFetchedNext : Prop :=
  ∀ (s : State) (w : Nat), w < 256 →
    phase (s.withFetchWord 8 w) = .execute ∧ fetchByte (s.withFetchWord 8 w) = some (BitVec.ofNat 8 w) ∧
    (s.withFetchWord 8 w).ra = s.ra ∧ (s.withFetchWord 8 w).rb = s.rb ∧ (s.withFetchWord 8 w).ro = s.ro ∧
    (s.withFetchWord 8 w).carry = s.carry ∧ (s.withFetchWord 8 w).events = s.events ∧
    (s.withFetchWord 8 w).ovfPc = s.ovfPc ∧ (s.withFetchWord 8 w).d11UpdatesCarry = s.d11UpdatesCarry ∧
    (s.pc < 256 → (s.withFetchWord 8 w).pc = s.pc)

/-- R163: the halt. That it is checked before every fetch, the first included, is the spec's decision D23; that it is a step of its own is the model's choice (log entry 7), and that it needs no continue signal is DEDUCED (log entry 24). -/
def Obligations.CoreHaltsWhenPcLeavesProgram : Prop :=
  ∀ s : State, s.status = .running → s.run = .active → s.n ≤ s.pc →
    step s = .next { s with status := .halted, events := s.events ++ [.finalRo s.ro] }

/-- R163: nothing follows the end of a run. That the model's step goes on answering the same state is the model's choice (log entry 6). -/
def Obligations.EndedRunStaysAsItIs : Prop :=
  ∀ s : State, s.status = .halted ∨ s.run ≠ .active → step s = .next s

/-- R167: the ceiling stop, for either value of the OPEN parameter `CEILING_REPORTS_FINAL_RO` (D17, log entry 2), and the halt, which comes first. That each is a step of the model of its own is the model's choice (log entry 7). -/
def Obligations.CeilingStopsContinuousRun : Prop :=
  ∀ s : State, s.status = .running → s.run = .active → s.policy = .continuous → 50 ≤ s.steps →
    (s.pc < s.n → step s = .next { s with
      run := .ceilingStopped
      events := if Config.ceilingReportsFinalRo then s.events ++ [.finalRo s.ro] else s.events }) ∧
    (s.n ≤ s.pc → step s = .next { s with status := .halted, events := s.events ++ [.finalRo s.ro] })

/-- R167 and R172: the human-paced gate. Holding the signals as a count is the model's choice (log entry 8), the place of the pause the spec's decision D24. -/
def Obligations.SteppedWaitsForContinueSignal : Prop :=
  ∀ s : State, s.status = .running → s.run = .active → s.pc < s.n → s.policy = .stepped → s.continues = 0 →
    step s = .next s ∧ phase (giveContinue s) = .execute

/-- R171 and R172: a terminated run is unfinished, not halted. Its place in State is DEDUCED (log entry 22), and that step then answers the same state is the model's choice (log entry 6). -/
def Obligations.TerminatedRunIsUnfinished : Prop :=
  ∀ s : State, s.status = .running → s.run = .active →
    terminate s = { s with run := .terminated } ∧ step (terminate s) = .next (terminate s)

/-- R170: the abstract interface (the spec's decision D16). That the continue signal is held as a count is the model's choice (log entry 8). -/
def Obligations.InterfaceShowsFetchEnableAndHalt : Prop :=
  ∀ s : State,
    (s.pc < s.n → fetchAddr s = some s.pc) ∧ (s.n ≤ s.pc → fetchAddr s = none) ∧
    (stepEnable s = true ↔ s.letRun) ∧ (haltedOut s = true ↔ s.status = .halted) ∧
    ∀ a, fetchAddr s = some a → fetchByte s = Memory.read s.imem a

/-- R168: the host's counter. -/
def Obligations.StepCounterCountsAndIsNeverRead : Prop :=
  State.reset.steps = 0 ∧
  (∀ s t : State, s.policy = .continuous → phase s = .execute → step s = .next t → t.steps = s.steps + 1) ∧
  (∀ (i : Instr) (s t : State) (k : Nat), exec i s = .next t →
    exec i { s with steps := k } = .next { t with steps := k }) ∧
  (∀ (s : State) (k : Nat), s.policy = .stepped → phase { s with steps := k } = phase s)

/-- R165 and R166 (the latter marked derived there): no event is removed or reordered. -/
def Obligations.StepsOnlyAppendEvents : Prop :=
  ∀ s t : State, step s = .next t →
    t.events = s.events ∨ (∃ e, e ≠ .overflowReset ∧ t.events = s.events ++ [e]) ∨
    t.events = s.events ++ [.overflowReset, .ro 0]

/-- R167's testable property, with R171: a Continuous run never executes more than 50 steps, and it ends. The 51st step of the machine is the halt or the ceiling stop, which execute no instruction (log entry 7). -/
def Obligations.ContinuousRunEndsWithinFiftySteps : Prop :=
  ∀ s : State, Memory.wf s.imem → s.policy = .continuous → s.status = .running → s.run = .active →
    s.steps ≤ 50 →
    ∃ t : State, Host.Core.run Sys2Proof.core 51 s = .next t ∧ t.steps ≤ 50 ∧ (t.endedByHalt ∨ t.endedAtCeiling)
end

