-- ==== Sys2Proof/Laws/Memory.lean ====
section
/-! SUPPORT. The instruction buffer: every operation on it keeps its canonical form, and what a read gives. -/

namespace Sys2Proof.Machine

@[simp] theorem Memory.length_load (file : List Byte) : (Memory.load file).length = min 256 file.length := by
  simp [Memory.load, Config.bufferCapacity]

/-- Loading a program gives the canonical form (R40, R41). -/
theorem Memory.load_wf (file : List Byte) : Memory.wf (Memory.load file) := by
  constructor
  · rw [Memory.length_load, Memory.load, List.map_fst_zip (by simp)]
    simp [Config.bufferCapacity]
  · rw [Memory.length_load]
    exact Nat.min_le_left _ _

/-- Placing a byte gives the canonical form. -/
theorem Memory.place_wf (m : Memory) (a : Nat) (b : Byte) : Memory.wf (Memory.place m a b) :=
  Memory.load_wf _

/-- The empty buffer of the reset state is in the canonical form. -/
theorem Memory.reset_wf : Memory.wf State.reset.imem := by decide

/-- In the canonical form the addresses rise strictly. -/
theorem Memory.wf_rising {m : Memory} (h : Memory.wf m) : m.Pairwise (fun p q => p.1 < q.1) := by
  have : (m.map Prod.fst).Pairwise (· < ·) := h.1 ▸ List.pairwise_lt_range
  exact List.pairwise_map.mp this

/-- Reading a zip of consecutive addresses is indexing its bytes. -/
theorem Memory.read_zip_range' (bs : List Byte) (k a : Nat) (h : k ≤ a) :
    Memory.read ((List.range' k bs.length).zip bs) a = bs[a - k]? := by
  induction bs generalizing k with
  | nil => simp [Memory.read]
  | cons b bs ih =>
    simp only [List.length_cons, List.range'_succ, List.zip_cons_cons, Memory.read]
    by_cases hk : k = a
    · subst hk; simp
    · rw [if_neg hk, ih (k + 1) (by omega)]
      obtain ⟨d, hd⟩ : ∃ d, a - k = d + 1 := ⟨a - k - 1, by omega⟩
      rw [hd, List.getElem?_cons_succ]
      congr 1
      omega

/-- A loaded buffer reads as the program file, up to its 256 bytes (R41, R42). -/
theorem Memory.read_load (file : List Byte) (a : Nat) :
    Memory.read (Memory.load file) a = (file.take 256)[a]? := by
  simpa [Memory.load, Config.bufferCapacity, List.range_eq_range'] using
    Memory.read_zip_range' (file.take 256) 0 a (Nat.zero_le a)

/-- A buffer in the canonical form is the load of its own bytes: equal contents are equal data. -/
theorem Memory.wf_eq_load {m : Memory} (h : Memory.wf m) : m = Memory.load m.bytes := by
  have hm : m = (m.map Prod.fst).zip (m.map Prod.snd) := by
    induction m with
    | nil => rfl
    | cons p m ih => simp [List.zip_map']
  have hl : (m.map Prod.snd).take Config.bufferCapacity = m.map Prod.snd :=
    List.take_of_length_le (by simpa using h.2)
  rw [Memory.load, Memory.bytes, hl, List.length_map, ← h.1]
  exact hm

/-- A buffer in the canonical form reads as its byte at that index, and as nothing beyond N. -/
theorem Memory.read_wf {m : Memory} (h : Memory.wf m) (a : Nat) : Memory.read m a = m.bytes[a]? := by
  conv_lhs => rw [Memory.wf_eq_load h]
  rw [Memory.read_load, List.take_of_length_le]
  exact (List.length_map (as := m) Prod.snd).le.trans h.2

/-- Below N a canonical buffer has a byte: a fetch there gives one (R42). -/
theorem Memory.read_isSome {m : Memory} (h : Memory.wf m) {a : Nat} (ha : a < m.length) :
    ∃ b, Memory.read m a = some b := by
  rw [Memory.read_wf h]
  exact ⟨_, List.getElem?_eq_getElem (by simpa [Memory.bytes] using ha)⟩

/-- The length of a buffer after a byte is placed. -/
theorem Memory.length_place (m : Memory) (a : Nat) (b : Byte) :
    (Memory.place m a b).length = min 256 (max m.length (a + 1)) := by
  simp only [Memory.place, Memory.length_load, Memory.bytes, List.length_set, List.length_append, List.length_map,
    List.length_replicate]
  omega

/-- The placed byte is read back. -/
theorem Memory.read_place {m : Memory} {a : Nat} (b : Byte) (ha : a < 256) :
    Memory.read (Memory.place m a b) a = some b := by
  rw [Memory.place, Memory.read_load, List.getElem?_take_of_lt ha]
  apply List.getElem?_set_self
  simp only [Memory.bytes, List.length_append, List.length_map, List.length_replicate]
  omega

/-- Every other byte of a canonical buffer reads as before. -/
theorem Memory.read_place_other {m : Memory} (h : Memory.wf m) {a k : Nat} (b : Byte) (hk : k < m.length) (hne : a ≠ k) :
    Memory.read (Memory.place m a b) k = Memory.read m k := by
  have hb : k < m.bytes.length := by simpa [Memory.bytes] using hk
  have hc : k < 256 := Nat.lt_of_lt_of_le hk h.2
  rw [Memory.place, Memory.read_load, List.getElem?_take_of_lt hc, List.getElem?_set_ne hne,
    List.getElem?_append_left hb, Memory.read_wf h]

end Sys2Proof.Machine
end

