-- ==== Sys2Proof/Laws/State.lean ====
section
/-! SUPPORT. One lemma per field per update of State, so that no later proof unfolds a record update. -/

namespace Sys2Proof.Machine.State

/-! ### setRa -/

@[simp] theorem setRa_ra (v : Nibble) (s : State) : (s.setRa v).ra = v := rfl
@[simp] theorem setRa_rb (v : Nibble) (s : State) : (s.setRa v).rb = s.rb := rfl
@[simp] theorem setRa_ro (v : Nibble) (s : State) : (s.setRa v).ro = s.ro := rfl
@[simp] theorem setRa_pc (v : Nibble) (s : State) : (s.setRa v).pc = s.pc := rfl
@[simp] theorem setRa_carry (v : Nibble) (s : State) : (s.setRa v).carry = s.carry := rfl
@[simp] theorem setRa_status (v : Nibble) (s : State) : (s.setRa v).status = s.status := rfl
@[simp] theorem setRa_imem (v : Nibble) (s : State) : (s.setRa v).imem = s.imem := rfl
@[simp] theorem setRa_ovfPc (v : Nibble) (s : State) : (s.setRa v).ovfPc = s.ovfPc := rfl
@[simp] theorem setRa_d11UpdatesCarry (v : Nibble) (s : State) : (s.setRa v).d11UpdatesCarry = s.d11UpdatesCarry := rfl
@[simp] theorem setRa_policy (v : Nibble) (s : State) : (s.setRa v).policy = s.policy := rfl
@[simp] theorem setRa_steps (v : Nibble) (s : State) : (s.setRa v).steps = s.steps := rfl
@[simp] theorem setRa_continues (v : Nibble) (s : State) : (s.setRa v).continues = s.continues := rfl
@[simp] theorem setRa_run (v : Nibble) (s : State) : (s.setRa v).run = s.run := rfl
@[simp] theorem setRa_events (v : Nibble) (s : State) : (s.setRa v).events = s.events := rfl

/-! ### setRb -/

@[simp] theorem setRb_ra (v : Nibble) (s : State) : (s.setRb v).ra = s.ra := rfl
@[simp] theorem setRb_rb (v : Nibble) (s : State) : (s.setRb v).rb = v := rfl
@[simp] theorem setRb_ro (v : Nibble) (s : State) : (s.setRb v).ro = s.ro := rfl
@[simp] theorem setRb_pc (v : Nibble) (s : State) : (s.setRb v).pc = s.pc := rfl
@[simp] theorem setRb_carry (v : Nibble) (s : State) : (s.setRb v).carry = s.carry := rfl
@[simp] theorem setRb_status (v : Nibble) (s : State) : (s.setRb v).status = s.status := rfl
@[simp] theorem setRb_imem (v : Nibble) (s : State) : (s.setRb v).imem = s.imem := rfl
@[simp] theorem setRb_ovfPc (v : Nibble) (s : State) : (s.setRb v).ovfPc = s.ovfPc := rfl
@[simp] theorem setRb_d11UpdatesCarry (v : Nibble) (s : State) : (s.setRb v).d11UpdatesCarry = s.d11UpdatesCarry := rfl
@[simp] theorem setRb_policy (v : Nibble) (s : State) : (s.setRb v).policy = s.policy := rfl
@[simp] theorem setRb_steps (v : Nibble) (s : State) : (s.setRb v).steps = s.steps := rfl
@[simp] theorem setRb_continues (v : Nibble) (s : State) : (s.setRb v).continues = s.continues := rfl
@[simp] theorem setRb_run (v : Nibble) (s : State) : (s.setRb v).run = s.run := rfl
@[simp] theorem setRb_events (v : Nibble) (s : State) : (s.setRb v).events = s.events := rfl

/-! ### setRo -/

@[simp] theorem setRo_ra (v : Nibble) (s : State) : (s.setRo v).ra = s.ra := rfl
@[simp] theorem setRo_rb (v : Nibble) (s : State) : (s.setRo v).rb = s.rb := rfl
@[simp] theorem setRo_ro (v : Nibble) (s : State) : (s.setRo v).ro = v := rfl
@[simp] theorem setRo_pc (v : Nibble) (s : State) : (s.setRo v).pc = s.pc := rfl
@[simp] theorem setRo_carry (v : Nibble) (s : State) : (s.setRo v).carry = s.carry := rfl
@[simp] theorem setRo_status (v : Nibble) (s : State) : (s.setRo v).status = s.status := rfl
@[simp] theorem setRo_imem (v : Nibble) (s : State) : (s.setRo v).imem = s.imem := rfl
@[simp] theorem setRo_ovfPc (v : Nibble) (s : State) : (s.setRo v).ovfPc = s.ovfPc := rfl
@[simp] theorem setRo_d11UpdatesCarry (v : Nibble) (s : State) : (s.setRo v).d11UpdatesCarry = s.d11UpdatesCarry := rfl
@[simp] theorem setRo_policy (v : Nibble) (s : State) : (s.setRo v).policy = s.policy := rfl
@[simp] theorem setRo_steps (v : Nibble) (s : State) : (s.setRo v).steps = s.steps := rfl
@[simp] theorem setRo_continues (v : Nibble) (s : State) : (s.setRo v).continues = s.continues := rfl
@[simp] theorem setRo_run (v : Nibble) (s : State) : (s.setRo v).run = s.run := rfl
@[simp] theorem setRo_events (v : Nibble) (s : State) : (s.setRo v).events = s.events := rfl

/-! ### setPc -/

@[simp] theorem setPc_ra (v : Nat) (s : State) : (s.setPc v).ra = s.ra := rfl
@[simp] theorem setPc_rb (v : Nat) (s : State) : (s.setPc v).rb = s.rb := rfl
@[simp] theorem setPc_ro (v : Nat) (s : State) : (s.setPc v).ro = s.ro := rfl
@[simp] theorem setPc_pc (v : Nat) (s : State) : (s.setPc v).pc = v := rfl
@[simp] theorem setPc_carry (v : Nat) (s : State) : (s.setPc v).carry = s.carry := rfl
@[simp] theorem setPc_status (v : Nat) (s : State) : (s.setPc v).status = s.status := rfl
@[simp] theorem setPc_imem (v : Nat) (s : State) : (s.setPc v).imem = s.imem := rfl
@[simp] theorem setPc_ovfPc (v : Nat) (s : State) : (s.setPc v).ovfPc = s.ovfPc := rfl
@[simp] theorem setPc_d11UpdatesCarry (v : Nat) (s : State) : (s.setPc v).d11UpdatesCarry = s.d11UpdatesCarry := rfl
@[simp] theorem setPc_policy (v : Nat) (s : State) : (s.setPc v).policy = s.policy := rfl
@[simp] theorem setPc_steps (v : Nat) (s : State) : (s.setPc v).steps = s.steps := rfl
@[simp] theorem setPc_continues (v : Nat) (s : State) : (s.setPc v).continues = s.continues := rfl
@[simp] theorem setPc_run (v : Nat) (s : State) : (s.setPc v).run = s.run := rfl
@[simp] theorem setPc_events (v : Nat) (s : State) : (s.setPc v).events = s.events := rfl

/-! ### setCarry -/

@[simp] theorem setCarry_ra (v : Bool) (s : State) : (s.setCarry v).ra = s.ra := rfl
@[simp] theorem setCarry_rb (v : Bool) (s : State) : (s.setCarry v).rb = s.rb := rfl
@[simp] theorem setCarry_ro (v : Bool) (s : State) : (s.setCarry v).ro = s.ro := rfl
@[simp] theorem setCarry_pc (v : Bool) (s : State) : (s.setCarry v).pc = s.pc := rfl
@[simp] theorem setCarry_carry (v : Bool) (s : State) : (s.setCarry v).carry = v := rfl
@[simp] theorem setCarry_status (v : Bool) (s : State) : (s.setCarry v).status = s.status := rfl
@[simp] theorem setCarry_imem (v : Bool) (s : State) : (s.setCarry v).imem = s.imem := rfl
@[simp] theorem setCarry_ovfPc (v : Bool) (s : State) : (s.setCarry v).ovfPc = s.ovfPc := rfl
@[simp] theorem setCarry_d11UpdatesCarry (v : Bool) (s : State) : (s.setCarry v).d11UpdatesCarry = s.d11UpdatesCarry := rfl
@[simp] theorem setCarry_policy (v : Bool) (s : State) : (s.setCarry v).policy = s.policy := rfl
@[simp] theorem setCarry_steps (v : Bool) (s : State) : (s.setCarry v).steps = s.steps := rfl
@[simp] theorem setCarry_continues (v : Bool) (s : State) : (s.setCarry v).continues = s.continues := rfl
@[simp] theorem setCarry_run (v : Bool) (s : State) : (s.setCarry v).run = s.run := rfl
@[simp] theorem setCarry_events (v : Bool) (s : State) : (s.setCarry v).events = s.events := rfl

/-! ### setStatus -/

@[simp] theorem setStatus_ra (v : Status) (s : State) : (s.setStatus v).ra = s.ra := rfl
@[simp] theorem setStatus_rb (v : Status) (s : State) : (s.setStatus v).rb = s.rb := rfl
@[simp] theorem setStatus_ro (v : Status) (s : State) : (s.setStatus v).ro = s.ro := rfl
@[simp] theorem setStatus_pc (v : Status) (s : State) : (s.setStatus v).pc = s.pc := rfl
@[simp] theorem setStatus_carry (v : Status) (s : State) : (s.setStatus v).carry = s.carry := rfl
@[simp] theorem setStatus_status (v : Status) (s : State) : (s.setStatus v).status = v := rfl
@[simp] theorem setStatus_imem (v : Status) (s : State) : (s.setStatus v).imem = s.imem := rfl
@[simp] theorem setStatus_ovfPc (v : Status) (s : State) : (s.setStatus v).ovfPc = s.ovfPc := rfl
@[simp] theorem setStatus_d11UpdatesCarry (v : Status) (s : State) : (s.setStatus v).d11UpdatesCarry = s.d11UpdatesCarry := rfl
@[simp] theorem setStatus_policy (v : Status) (s : State) : (s.setStatus v).policy = s.policy := rfl
@[simp] theorem setStatus_steps (v : Status) (s : State) : (s.setStatus v).steps = s.steps := rfl
@[simp] theorem setStatus_continues (v : Status) (s : State) : (s.setStatus v).continues = s.continues := rfl
@[simp] theorem setStatus_run (v : Status) (s : State) : (s.setStatus v).run = s.run := rfl
@[simp] theorem setStatus_events (v : Status) (s : State) : (s.setStatus v).events = s.events := rfl

/-! ### setImem -/

@[simp] theorem setImem_ra (v : Memory) (s : State) : (s.setImem v).ra = s.ra := rfl
@[simp] theorem setImem_rb (v : Memory) (s : State) : (s.setImem v).rb = s.rb := rfl
@[simp] theorem setImem_ro (v : Memory) (s : State) : (s.setImem v).ro = s.ro := rfl
@[simp] theorem setImem_pc (v : Memory) (s : State) : (s.setImem v).pc = s.pc := rfl
@[simp] theorem setImem_carry (v : Memory) (s : State) : (s.setImem v).carry = s.carry := rfl
@[simp] theorem setImem_status (v : Memory) (s : State) : (s.setImem v).status = s.status := rfl
@[simp] theorem setImem_imem (v : Memory) (s : State) : (s.setImem v).imem = v := rfl
@[simp] theorem setImem_ovfPc (v : Memory) (s : State) : (s.setImem v).ovfPc = s.ovfPc := rfl
@[simp] theorem setImem_d11UpdatesCarry (v : Memory) (s : State) : (s.setImem v).d11UpdatesCarry = s.d11UpdatesCarry := rfl
@[simp] theorem setImem_policy (v : Memory) (s : State) : (s.setImem v).policy = s.policy := rfl
@[simp] theorem setImem_steps (v : Memory) (s : State) : (s.setImem v).steps = s.steps := rfl
@[simp] theorem setImem_continues (v : Memory) (s : State) : (s.setImem v).continues = s.continues := rfl
@[simp] theorem setImem_run (v : Memory) (s : State) : (s.setImem v).run = s.run := rfl
@[simp] theorem setImem_events (v : Memory) (s : State) : (s.setImem v).events = s.events := rfl

/-! ### setPolicy -/

@[simp] theorem setPolicy_ra (v : RunPolicy) (s : State) : (s.setPolicy v).ra = s.ra := rfl
@[simp] theorem setPolicy_rb (v : RunPolicy) (s : State) : (s.setPolicy v).rb = s.rb := rfl
@[simp] theorem setPolicy_ro (v : RunPolicy) (s : State) : (s.setPolicy v).ro = s.ro := rfl
@[simp] theorem setPolicy_pc (v : RunPolicy) (s : State) : (s.setPolicy v).pc = s.pc := rfl
@[simp] theorem setPolicy_carry (v : RunPolicy) (s : State) : (s.setPolicy v).carry = s.carry := rfl
@[simp] theorem setPolicy_status (v : RunPolicy) (s : State) : (s.setPolicy v).status = s.status := rfl
@[simp] theorem setPolicy_imem (v : RunPolicy) (s : State) : (s.setPolicy v).imem = s.imem := rfl
@[simp] theorem setPolicy_ovfPc (v : RunPolicy) (s : State) : (s.setPolicy v).ovfPc = s.ovfPc := rfl
@[simp] theorem setPolicy_d11UpdatesCarry (v : RunPolicy) (s : State) : (s.setPolicy v).d11UpdatesCarry = s.d11UpdatesCarry := rfl
@[simp] theorem setPolicy_policy (v : RunPolicy) (s : State) : (s.setPolicy v).policy = v := rfl
@[simp] theorem setPolicy_steps (v : RunPolicy) (s : State) : (s.setPolicy v).steps = s.steps := rfl
@[simp] theorem setPolicy_continues (v : RunPolicy) (s : State) : (s.setPolicy v).continues = s.continues := rfl
@[simp] theorem setPolicy_run (v : RunPolicy) (s : State) : (s.setPolicy v).run = s.run := rfl
@[simp] theorem setPolicy_events (v : RunPolicy) (s : State) : (s.setPolicy v).events = s.events := rfl

/-! ### setSteps -/

@[simp] theorem setSteps_ra (v : Nat) (s : State) : (s.setSteps v).ra = s.ra := rfl
@[simp] theorem setSteps_rb (v : Nat) (s : State) : (s.setSteps v).rb = s.rb := rfl
@[simp] theorem setSteps_ro (v : Nat) (s : State) : (s.setSteps v).ro = s.ro := rfl
@[simp] theorem setSteps_pc (v : Nat) (s : State) : (s.setSteps v).pc = s.pc := rfl
@[simp] theorem setSteps_carry (v : Nat) (s : State) : (s.setSteps v).carry = s.carry := rfl
@[simp] theorem setSteps_status (v : Nat) (s : State) : (s.setSteps v).status = s.status := rfl
@[simp] theorem setSteps_imem (v : Nat) (s : State) : (s.setSteps v).imem = s.imem := rfl
@[simp] theorem setSteps_ovfPc (v : Nat) (s : State) : (s.setSteps v).ovfPc = s.ovfPc := rfl
@[simp] theorem setSteps_d11UpdatesCarry (v : Nat) (s : State) : (s.setSteps v).d11UpdatesCarry = s.d11UpdatesCarry := rfl
@[simp] theorem setSteps_policy (v : Nat) (s : State) : (s.setSteps v).policy = s.policy := rfl
@[simp] theorem setSteps_steps (v : Nat) (s : State) : (s.setSteps v).steps = v := rfl
@[simp] theorem setSteps_continues (v : Nat) (s : State) : (s.setSteps v).continues = s.continues := rfl
@[simp] theorem setSteps_run (v : Nat) (s : State) : (s.setSteps v).run = s.run := rfl
@[simp] theorem setSteps_events (v : Nat) (s : State) : (s.setSteps v).events = s.events := rfl

/-! ### setContinues -/

@[simp] theorem setContinues_ra (v : Nat) (s : State) : (s.setContinues v).ra = s.ra := rfl
@[simp] theorem setContinues_rb (v : Nat) (s : State) : (s.setContinues v).rb = s.rb := rfl
@[simp] theorem setContinues_ro (v : Nat) (s : State) : (s.setContinues v).ro = s.ro := rfl
@[simp] theorem setContinues_pc (v : Nat) (s : State) : (s.setContinues v).pc = s.pc := rfl
@[simp] theorem setContinues_carry (v : Nat) (s : State) : (s.setContinues v).carry = s.carry := rfl
@[simp] theorem setContinues_status (v : Nat) (s : State) : (s.setContinues v).status = s.status := rfl
@[simp] theorem setContinues_imem (v : Nat) (s : State) : (s.setContinues v).imem = s.imem := rfl
@[simp] theorem setContinues_ovfPc (v : Nat) (s : State) : (s.setContinues v).ovfPc = s.ovfPc := rfl
@[simp] theorem setContinues_d11UpdatesCarry (v : Nat) (s : State) : (s.setContinues v).d11UpdatesCarry = s.d11UpdatesCarry := rfl
@[simp] theorem setContinues_policy (v : Nat) (s : State) : (s.setContinues v).policy = s.policy := rfl
@[simp] theorem setContinues_steps (v : Nat) (s : State) : (s.setContinues v).steps = s.steps := rfl
@[simp] theorem setContinues_continues (v : Nat) (s : State) : (s.setContinues v).continues = v := rfl
@[simp] theorem setContinues_run (v : Nat) (s : State) : (s.setContinues v).run = s.run := rfl
@[simp] theorem setContinues_events (v : Nat) (s : State) : (s.setContinues v).events = s.events := rfl

/-! ### setRun -/

@[simp] theorem setRun_ra (v : RunState) (s : State) : (s.setRun v).ra = s.ra := rfl
@[simp] theorem setRun_rb (v : RunState) (s : State) : (s.setRun v).rb = s.rb := rfl
@[simp] theorem setRun_ro (v : RunState) (s : State) : (s.setRun v).ro = s.ro := rfl
@[simp] theorem setRun_pc (v : RunState) (s : State) : (s.setRun v).pc = s.pc := rfl
@[simp] theorem setRun_carry (v : RunState) (s : State) : (s.setRun v).carry = s.carry := rfl
@[simp] theorem setRun_status (v : RunState) (s : State) : (s.setRun v).status = s.status := rfl
@[simp] theorem setRun_imem (v : RunState) (s : State) : (s.setRun v).imem = s.imem := rfl
@[simp] theorem setRun_ovfPc (v : RunState) (s : State) : (s.setRun v).ovfPc = s.ovfPc := rfl
@[simp] theorem setRun_d11UpdatesCarry (v : RunState) (s : State) : (s.setRun v).d11UpdatesCarry = s.d11UpdatesCarry := rfl
@[simp] theorem setRun_policy (v : RunState) (s : State) : (s.setRun v).policy = s.policy := rfl
@[simp] theorem setRun_steps (v : RunState) (s : State) : (s.setRun v).steps = s.steps := rfl
@[simp] theorem setRun_continues (v : RunState) (s : State) : (s.setRun v).continues = s.continues := rfl
@[simp] theorem setRun_run (v : RunState) (s : State) : (s.setRun v).run = v := rfl
@[simp] theorem setRun_events (v : RunState) (s : State) : (s.setRun v).events = s.events := rfl

/-! ### emit -/

@[simp] theorem emit_ra (e : Event) (s : State) : (s.emit e).ra = s.ra := rfl
@[simp] theorem emit_rb (e : Event) (s : State) : (s.emit e).rb = s.rb := rfl
@[simp] theorem emit_ro (e : Event) (s : State) : (s.emit e).ro = s.ro := rfl
@[simp] theorem emit_pc (e : Event) (s : State) : (s.emit e).pc = s.pc := rfl
@[simp] theorem emit_carry (e : Event) (s : State) : (s.emit e).carry = s.carry := rfl
@[simp] theorem emit_status (e : Event) (s : State) : (s.emit e).status = s.status := rfl
@[simp] theorem emit_imem (e : Event) (s : State) : (s.emit e).imem = s.imem := rfl
@[simp] theorem emit_ovfPc (e : Event) (s : State) : (s.emit e).ovfPc = s.ovfPc := rfl
@[simp] theorem emit_d11UpdatesCarry (e : Event) (s : State) : (s.emit e).d11UpdatesCarry = s.d11UpdatesCarry := rfl
@[simp] theorem emit_policy (e : Event) (s : State) : (s.emit e).policy = s.policy := rfl
@[simp] theorem emit_steps (e : Event) (s : State) : (s.emit e).steps = s.steps := rfl
@[simp] theorem emit_continues (e : Event) (s : State) : (s.emit e).continues = s.continues := rfl
@[simp] theorem emit_run (e : Event) (s : State) : (s.emit e).run = s.run := rfl
@[simp] theorem emit_events (e : Event) (s : State) : (s.emit e).events = s.events ++ [e] := rfl

/-! ### reset -/

@[simp] theorem reset_ra : reset.ra = 0 := rfl
@[simp] theorem reset_rb : reset.rb = 1 := rfl
@[simp] theorem reset_ro : reset.ro = 0 := rfl
@[simp] theorem reset_pc : reset.pc = 0 := rfl
@[simp] theorem reset_carry : reset.carry = false := rfl
@[simp] theorem reset_status : reset.status = .running := rfl
@[simp] theorem reset_imem : reset.imem = [] := rfl
@[simp] theorem reset_ovfPc : reset.ovfPc = .increment := rfl
@[simp] theorem reset_d11UpdatesCarry : reset.d11UpdatesCarry = true := rfl
@[simp] theorem reset_policy : reset.policy = .continuous := rfl
@[simp] theorem reset_steps : reset.steps = 0 := rfl
@[simp] theorem reset_continues : reset.continues = 0 := rfl
@[simp] theorem reset_run : reset.run = .active := rfl
@[simp] theorem reset_events : reset.events = [] := rfl

/-- Two states with equal fields are equal. -/
theorem ext_fields {s t : State} (h : (s.ra, s.rb, s.ro, s.pc, s.carry, s.status, s.imem) =
      (t.ra, t.rb, t.ro, t.pc, t.carry, t.status, t.imem))
    (k : (s.ovfPc, s.d11UpdatesCarry, s.policy, s.steps, s.continues, s.run, s.events) =
      (t.ovfPc, t.d11UpdatesCarry, t.policy, t.steps, t.continues, t.run, t.events)) : s = t := by
  cases s; cases t; simp_all

end Sys2Proof.Machine.State
end

