-- ==== Sys2Proof/Laws/Ops.lean ====
section
/-! SUPPORT. What each shared operation does, said once: the ALU, the register selector with its guard, the ALU path,
the jumps, the decision what a step is, and the step itself. Later proofs cite these and unfold nothing. -/

namespace Sys2Proof.Machine

/-! ## Operands and the ALU -/

@[simp] theorem rightOperand_rb (s : State) : rightOperand .rb s = s.rb := rfl
@[simp] theorem rightOperand_imm (v : Imm) (s : State) : rightOperand (.imm v) s = zextImm v := rfl
@[simp] theorem leftOperand_eq (s : State) : leftOperand s = s.ra := rfl

/-- Zero extension keeps the value of an immediate. -/
@[simp] theorem zextImm_toNat (v : Imm) : (zextImm v).toNat = v.toNat := by
  simp [zextImm, BitVec.toNat_setWidth]
  omega

/-- Add is the sum mod 16, with carry-out exactly when the sum exceeds 15. -/
theorem alu_add (a b : Nibble) : alu .add a b = (a + b, decide (15 < a.toNat + b.toNat)) := by
  revert a b; decide

/-- Subtract is the difference mod 16, with carry-out exactly when it is negative. -/
theorem alu_sub (a b : Nibble) : alu .sub a b = (a - b, decide (a.toNat < b.toNat)) := by
  revert a b; decide

/-! ## The selector, the guard, Carry and PC -/

/-- The guard tests for 14 and 15. -/
theorem exceedsThreshold_iff (v : Nibble) : exceedsThreshold v = true ↔ 13 < v.toNat :=
  decide_eq_true_iff

@[simp] theorem writesCarry_ra (s : State) : writesCarry .ra s = true := rfl
@[simp] theorem writesCarry_rb (s : State) : writesCarry .rb s = true := rfl
@[simp] theorem writesCarry_ro (s : State) : writesCarry .ro s = true := rfl
@[simp] theorem writesCarry_discard (s : State) : writesCarry .discard s = s.d11UpdatesCarry := rfl

/-- The Carry write changes Carry alone. -/
theorem updateCarry_eq (d : Dest) (c : Bool) (s : State) :
    updateCarry d c s = s.setCarry (if writesCarry d s then c else s.carry) := by
  unfold updateCarry; split <;> rfl

/-- An ALU-path step into RA. -/
theorem aluStep_ra (op : AluOp) (o : Operand) (s : State) :
    aluStep op o .ra s =
      { s with
        ra := (alu op s.ra (rightOperand o s)).1, carry := (alu op s.ra (rightOperand o s)).2, pc := s.pc + 1 } := rfl

/-- An ALU-path step into RB. -/
theorem aluStep_rb (op : AluOp) (o : Operand) (s : State) :
    aluStep op o .rb s =
      { s with
        rb := (alu op s.ra (rightOperand o s)).1, carry := (alu op s.ra (rightOperand o s)).2, pc := s.pc + 1 } := rfl

/-- An ALU-path step into RO whose result does not fire the guard. -/
theorem aluStep_ro_quiet (op : AluOp) (o : Operand) (s : State)
    (h : exceedsThreshold (alu op s.ra (rightOperand o s)).1 = false) :
    aluStep op o .ro s =
      { s with
        ro := (alu op s.ra (rightOperand o s)).1, carry := (alu op s.ra (rightOperand o s)).2, pc := s.pc + 1
        events := s.events ++ [.ro (alu op s.ra (rightOperand o s)).1] } := by
  simp [aluStep, aluPath, observeRo, routeResult, overflowGuard, updateCarry, guardFires, advancePc, h,
    State.setCarry, State.setRo, State.setPc, State.emit]

/-- An ALU-path step into RO whose result fires the guard. -/
theorem aluStep_ro_fired (op : AluOp) (o : Operand) (s : State)
    (h : exceedsThreshold (alu op s.ra (rightOperand o s)).1 = true) :
    aluStep op o .ro s =
      { s with
        ra := 0, rb := 1, ro := 0, carry := (alu op s.ra (rightOperand o s)).2
        pc := if s.ovfPc = .zero then 0 else s.pc + 1
        events := s.events ++ [.overflowReset, .ro 0] } := by
  by_cases hz : s.ovfPc = .zero <;>
    simp [aluStep, aluPath, observeRo, routeResult, overflowGuard, updateCarry, guardFires, advancePc, h, hz,
      State.setCarry, State.setRo, State.setRa, State.setRb, State.setPc, State.emit]

/-- An ALU-path step with the reserved selector. -/
theorem aluStep_discard (op : AluOp) (o : Operand) (s : State) :
    aluStep op o .discard s =
      { s with
        carry := if s.d11UpdatesCarry then (alu op s.ra (rightOperand o s)).2 else s.carry, pc := s.pc + 1 } := by
  cases h : s.d11UpdatesCarry <;>
    simp [aluStep, aluPath, observeRo, routeResult, updateCarry, guardFires, advancePc, h, State.setCarry, State.setPc]

/-- A taken jump. -/
theorem jumpStep_eq (d : Dest) (imm : Imm) (s : State) :
    jumpStep d imm s =
      { s with
        pc := imm.toNat
        events := match d with
          | .ro => s.events ++ [.ro s.ro]
          | _ => s.events } := by
  cases d <;> rfl

/-- JC with Carry set. -/
theorem execJc_taken (d : Dest) (sreg : Bool) (imm : Imm) {s : State} (h : s.carry = true) :
    execJc d sreg imm s = .next (jumpStep d imm s) := by
  simp [execJc, h]

/-- JC with Carry clear. -/
theorem execJc_notTaken (d : Dest) (sreg : Bool) (imm : Imm) {s : State} (h : s.carry = false) :
    execJc d sreg imm s = .next (aluStep (opOfS (imm.getLsbD 2)) (operandOfSreg sreg imm) d s) := by
  simp [execJc, h]

/-- If an instruction answers a next state, it took the ALU path or a jump. -/
theorem exec_cases {i : Instr} {s t : State} (h : exec i s = .next t) :
    (∃ op o d, t = aluStep op o d s) ∨ (∃ d imm, t = jumpStep d imm s) := by
  cases i with
  | jc d sreg imm =>
    simp only [exec, execJc] at h
    split at h <;> injection h with h
    · exact .inr ⟨_, _, h.symm⟩
    · exact .inl ⟨_, _, _, h.symm⟩
  | j c d sreg imm => exact .inr ⟨d, imm, by injection h with h; exact h.symm⟩
  | _ => exact .inl ⟨_, _, _, by injection h with h; exact h.symm⟩

/-- The frame of an ALU-path step: the buffer, status, parameters and the host's side are as before. -/
theorem aluStep_frame (op : AluOp) (o : Operand) (d : Dest) (s : State) :
    ∃ a b r p c es, aluStep op o d s = { s with ra := a, rb := b, ro := r, pc := p, carry := c, events := s.events ++ es } := by
  cases d with
  | ra => exact ⟨_, _, _, _, _, [], by rw [aluStep_ra, List.append_nil]⟩
  | rb => exact ⟨_, _, _, _, _, [], by rw [aluStep_rb, List.append_nil]⟩
  | discard => exact ⟨_, _, _, _, _, [], by rw [aluStep_discard, List.append_nil]⟩
  | ro =>
    cases h : exceedsThreshold (alu op s.ra (rightOperand o s)).1
    · exact ⟨_, _, _, _, _, _, aluStep_ro_quiet op o s h⟩
    · exact ⟨_, _, _, _, _, _, aluStep_ro_fired op o s h⟩

/-- The frame of a taken jump: PC and the events alone may change. -/
theorem jumpStep_frame (d : Dest) (imm : Imm) (s : State) :
    ∃ es, jumpStep d imm s = { s with pc := imm.toNat, events := s.events ++ es } := by
  cases d with
  | ro => exact ⟨[.ro s.ro], rfl⟩
  | _ => exact ⟨[], by rw [jumpStep_eq, List.append_nil]⟩

/-! ## The run -/

theorem runOver_eq_false_iff (s : State) : runOver s = false ↔ s.status = .running ∧ s.run = .active := by
  cases h : s.status <;> cases k : s.run <;> simp [runOver, h, k]

/-- What the next step is, and why. -/
theorem phase_cases (s : State) :
    (runOver s = true ∧ phase s = .ended) ∨
    (runOver s = false ∧ s.n ≤ s.pc ∧ phase s = .halt) ∨
    (runOver s = false ∧ s.pc < s.n ∧ stepEnable s = true ∧ phase s = .execute) ∨
    (runOver s = false ∧ s.pc < s.n ∧ stepEnable s = false ∧ s.policy = .continuous ∧ phase s = .ceiling) ∨
    (runOver s = false ∧ s.pc < s.n ∧ stepEnable s = false ∧ s.policy = .stepped ∧ phase s = .wait) := by
  unfold phase heldPhase
  cases hr : runOver s
  · by_cases hn : s.n ≤ s.pc
    · exact .inr (.inl (by simp [hn]))
    · cases he : stepEnable s
      · cases hp : s.policy <;> simp [hn, Nat.lt_of_not_le hn]
      · simp [hn, Nat.lt_of_not_le hn]
  · exact .inl (by simp)

theorem stepEnable_continuous {s : State} (h : s.policy = .continuous) :
    stepEnable s = decide (s.steps < 50) := by
  unfold stepEnable
  rw [h]
  rfl

theorem stepEnable_stepped {s : State} (h : s.policy = .stepped) :
    stepEnable s = decide (0 < s.continues) := by
  simp [stepEnable, h]

/-- If a step answers a next state, it was one of these. -/
theorem step_cases {s t : State} (h : step s = .next t) :
    (phase s = .ended ∧ t = s) ∨
    (phase s = .halt ∧ t = haltCore s) ∨
    (phase s = .execute ∧ ∃ b u, fetchByte s = some b ∧ exec (decode b) s = .next u ∧ t = countStep u) ∨
    (phase s = .ceiling ∧ t = stopAtCeiling s) ∨
    (phase s = .wait ∧ t = s) := by
  unfold step at h
  cases hp : phase s with
  | ended => exact .inl ⟨rfl, by simpa [hp] using h.symm⟩
  | halt => exact .inr (.inl ⟨rfl, by simpa [hp] using h.symm⟩)
  | execute =>
    refine .inr (.inr (.inl ⟨rfl, ?_⟩))
    simp only [hp, executeNext] at h
    cases hb : fetchByte s with
    | none => simp [hb] at h
    | some b =>
      simp only [hb] at h
      cases hu : exec (decode b) s with
      | next u => exact ⟨b, u, rfl, hu, by simpa [hu] using h.symm⟩
      | fault r => exact nomatch r
      | refused r => simp [hu] at h
  | ceiling => exact .inr (.inr (.inr (.inl ⟨rfl, by simpa [hp] using h.symm⟩)))
  | wait => exact .inr (.inr (.inr (.inr ⟨rfl, by simpa [hp] using h.symm⟩)))

/-- The halt in fields. -/
theorem haltCore_eq (s : State) :
    haltCore s = { s with status := .halted, events := s.events ++ [.finalRo s.ro] } := rfl

/-- The ceiling stop changes the host's side of the run and, at most, the events. -/
theorem stopAtCeilingWith_eq (report : Bool) (s : State) :
    stopAtCeilingWith report s =
      { s with
        run := .ceilingStopped, events := if report then s.events ++ [.finalRo s.ro] else s.events } := by
  cases report <;> rfl

/-- The host's bookkeeping changes the counter or the signals, and nothing else. -/
theorem countStep_eq (s : State) :
    countStep s =
      { s with
        steps := if s.policy = .continuous then s.steps + 1 else s.steps
        continues := if s.policy = .stepped then s.continues - 1 else s.continues } := by
  cases h : s.policy <;> simp [countStep, h, State.setSteps, State.setContinues]

end Sys2Proof.Machine
end

