-- ==== Sys2Proof/Laws/PerInstr.lean ====
section
/-! SUPPORT. Statements made per instruction, about the instruction as syntax. -/

namespace Sys2Proof.Laws.EncodingMatchesRow

/-- The byte of a well-formed instruction lies in that instruction's row of the opcode table, and the row is one of the
table's (R72). -/
def Statement (i : Instr) : Prop :=
  i.wellFormed = true → i.row.matchesByte (encode i) = true ∧ i.row ∈ opcodeTable

theorem addrRa (x : BitVec 2) : Statement (.addrRa x) := by
  revert x; unfold Statement; decide

theorem subrRa (x : BitVec 2) : Statement (.subrRa x) := by
  revert x; unfold Statement; decide

theorem addiRa (imm : Imm) : Statement (.addiRa imm) := by
  revert imm; unfold Statement; decide

theorem subiRa (imm : Imm) : Statement (.subiRa imm) := by
  revert imm; unfold Statement; decide

theorem addrRb (x : BitVec 2) : Statement (.addrRb x) := by
  revert x; unfold Statement; decide

theorem subrRb (x : BitVec 2) : Statement (.subrRb x) := by
  revert x; unfold Statement; decide

theorem addiRb (imm : Imm) : Statement (.addiRb imm) := by
  revert imm; unfold Statement; decide

theorem subiRb (imm : Imm) : Statement (.subiRb imm) := by
  revert imm; unfold Statement; decide

theorem addrRo (x : BitVec 2) : Statement (.addrRo x) := by
  revert x; unfold Statement; decide

theorem subrRo (x : BitVec 2) : Statement (.subrRo x) := by
  revert x; unfold Statement; decide

theorem addiRo (imm : Imm) : Statement (.addiRo imm) := by
  revert imm; unfold Statement; decide

theorem subiRo (imm : Imm) : Statement (.subiRo imm) := by
  revert imm; unfold Statement; decide

theorem addrNone (x : BitVec 2) : Statement (.addrNone x) := by
  revert x; unfold Statement; decide

theorem subrNone (x : BitVec 2) : Statement (.subrNone x) := by
  revert x; unfold Statement; decide

theorem addiNone (imm : Imm) : Statement (.addiNone imm) := by
  revert imm; unfold Statement; decide

theorem subiNone (imm : Imm) : Statement (.subiNone imm) := by
  revert imm; unfold Statement; decide

theorem jc (d : Dest) (sreg : Bool) (imm : Imm) : Statement (.jc d sreg imm) := by
  revert imm; cases d <;> cases sreg <;> unfold Statement <;> decide

theorem j (c : Bool) (d : Dest) (sreg : Bool) (imm : Imm) : Statement (.j c d sreg imm) := by
  revert imm; cases c <;> cases d <;> cases sreg <;> unfold Statement <;> decide

end Sys2Proof.Laws.EncodingMatchesRow
end

