-- ==== Sys2Proof/Tests/Slice0.lean ====
section
/-! SUPPORT. The model's own tests. Expected results come from the spec: the encodings of spec/opcode_table.json, the
vectors of spec/95_test_vectors.md and the examples of the instruction rules. The last part shows, for every statement
with hypotheses, a state and operands that meet them. -/

namespace Sys2Proof.Tests
open Sys2Proof Sys2Proof.Machine

/-! ## Helpers -/

/-- A state `RA RB RO Carry PC` of the vectors, everything else as at reset. -/
def st (ra rb ro : Nibble) (carry : Bool) (pc : Nat) : State :=
  { State.reset with ra := ra, rb := rb, ro := ro, carry := carry, pc := pc }

/-- The next state of an outcome. -/
def out (o : Host.Outcome State Fault Refusal) : Option State :=
  match o with
  | .next t => some t
  | .fault _ => none
  | .refused _ => none

/-- An outcome with a next state answers it. -/
theorem next_of_out {o : Host.Outcome State Fault Refusal} {t : State} (h : out o = some t) : o = .next t := by
  cases o with
  | next u => simpa [out] using h
  | fault r => simp [out] at h
  | refused r => simp [out] at h

/-- Does the outcome hold these registers, flag, PC and events? -/
def gives (o : Host.Outcome State Fault Refusal) (ra rb ro : Nibble) (carry : Bool) (pc : Nat) (events : List Event) : Bool :=
  match out o with
  | some t => t.ra == ra && t.rb == rb && t.ro == ro && t.carry == carry && t.pc == pc && t.events == events
  | none => false

/-- One step that fetches and runs byte w from s. -/
def stepOn (w : Nat) (s : State) : Host.Outcome State Fault Refusal := step (s.withFetchWord 8 w)

/-! ## Well-formedness: an ill-formed term for each check, and its boundary (R69) -/

theorem test_wf_addiRa : (Instr.addiRa 4).wellFormed = false ∧ (Instr.addiRa 3).wellFormed = true := by decide
theorem test_wf_subiRa : (Instr.subiRa 3).wellFormed = false ∧ (Instr.subiRa 4).wellFormed = true := by decide
theorem test_wf_addiRb : (Instr.addiRb 4).wellFormed = false ∧ (Instr.addiRb 3).wellFormed = true := by decide
theorem test_wf_subiRb : (Instr.subiRb 3).wellFormed = false ∧ (Instr.subiRb 4).wellFormed = true := by decide
theorem test_wf_addiRo : (Instr.addiRo 4).wellFormed = false ∧ (Instr.addiRo 3).wellFormed = true := by decide
theorem test_wf_subiRo : (Instr.subiRo 3).wellFormed = false ∧ (Instr.subiRo 4).wellFormed = true := by decide
theorem test_wf_addiNone : (Instr.addiNone 4).wellFormed = false ∧ (Instr.addiNone 3).wellFormed = true := by decide
theorem test_wf_subiNone : (Instr.subiNone 3).wellFormed = false ∧ (Instr.subiNone 4).wellFormed = true := by decide

/-! ## Decoding: words written out bit by bit from the encodings of spec/opcode_table.json -/

theorem test_decode_addrRa : decodeTableWord 8 0b00000010 = some (.addrRa 2) := by decide
theorem test_decode_subrRa : decodeTableWord 8 0b00000101 = some (.subrRa 1) := by decide
theorem test_decode_addiRa : decodeTableWord 8 0b00001011 = some (.addiRa 3) := by decide
theorem test_decode_subiRa : decodeTableWord 8 0b00001100 = some (.subiRa 4) := by decide
theorem test_decode_addrRb : decodeTableWord 8 0b00010001 = some (.addrRb 1) := by decide
theorem test_decode_subrRb : decodeTableWord 8 0b00010111 = some (.subrRb 3) := by decide
theorem test_decode_addiRb : decodeTableWord 8 0b00011010 = some (.addiRb 2) := by decide
theorem test_decode_subiRb : decodeTableWord 8 0b00011111 = some (.subiRb 7) := by decide
theorem test_decode_addrRo : decodeTableWord 8 0b00100000 = some (.addrRo 0) := by decide
theorem test_decode_subrRo : decodeTableWord 8 0b00100110 = some (.subrRo 2) := by decide
theorem test_decode_addiRo : decodeTableWord 8 0b00101001 = some (.addiRo 1) := by decide
theorem test_decode_subiRo : decodeTableWord 8 0b00101101 = some (.subiRo 5) := by decide
theorem test_decode_addrNone : decodeTableWord 8 0b00110011 = some (.addrNone 3) := by decide
theorem test_decode_subrNone : decodeTableWord 8 0b00110100 = some (.subrNone 0) := by decide
theorem test_decode_addiNone : decodeTableWord 8 0b00111000 = some (.addiNone 0) := by decide
theorem test_decode_subiNone : decodeTableWord 8 0b00111110 = some (.subiNone 6) := by decide
theorem test_decode_jc : decodeTableWord 8 0b01101101 = some (.jc .ro true 5) := by decide
theorem test_decode_j : decodeTableWord 8 0b11010110 = some (.j true .rb false 6) := by decide
theorem test_encode_jc : encode (.jc .rb true 2) = 0x5A#8 := by decide
theorem test_encode_j : encode (.j false .ro false 5) = 0xA5#8 := by decide
theorem test_fields_5A : decodeFields 0x5A#8 = ⟨false, true, false, true, true, false, 2⟩ := by decide
theorem test_fields_FF : decodeFields 0xFF#8 = ⟨true, true, true, true, true, true, 7⟩ := by decide
theorem test_decodeBytes_rest : decodeBytes [0x80#8, 0x20#8] = .ok (.j false .ra false 0, [0x20#8]) := rfl
theorem test_decodeBytes_none : decodeBytes [] = .error .noByte := rfl

/-! ## The ALU (spec/95_test_vectors.md section 3) -/

theorem test_alu_add_wraps : alu .add 15 15 = (14, true) ∧ alu .add 7 8 = (15, false) := by decide
theorem test_alu_sub_borrows : alu .sub 0 15 = (1, true) ∧ alu .sub 5 5 = (0, false) := by decide

/-! ## Steps (spec/95_test_vectors.md sections 4 and 5, and the examples of 40_alu.md and 41_jump.md) -/

/-- V1, V2. -/
theorem test_addrRa_wraps :
    gives (stepOn 0x00 (st 15 15 0 false 0)) 14 15 0 true 1 [] = true ∧
    gives (stepOn 0x00 (st 7 0 0 true 0)) 7 0 0 false 1 [] = true := by decide

/-- V3, V4. -/
theorem test_subrRa_borrows :
    gives (stepOn 0x04 (st 0 15 0 false 0)) 1 15 0 true 1 [] = true ∧
    gives (stepOn 0x04 (st 9 9 0 true 0)) 0 9 0 false 1 [] = true := by decide

/-- V5, V6: an add, not a load. -/
theorem test_addiRa_adds :
    gives (stepOn 0x08 (st 9 2 0 true 0)) 9 2 0 false 1 [] = true ∧
    gives (stepOn 0x0B (st 15 2 0 false 0)) 2 2 0 true 1 [] = true := by decide

/-- V7, V8. -/
theorem test_subiRa_subtracts :
    gives (stepOn 0x0F (st 0 1 0 false 0)) 9 1 0 true 1 [] = true ∧
    gives (stepOn 0x0F (st 7 1 0 true 0)) 0 1 0 false 1 [] = true := by decide

/-- V9. -/
theorem test_addrRb :
    gives (stepOn 0x10 (st 15 1 0 false 0)) 15 0 0 true 1 [] = true := by decide

/-- V10. -/
theorem test_subrRb_operand_order :
    gives (stepOn 0x14 (st 0 1 0 false 0)) 0 15 0 true 1 [] = true := by decide

/-- V11. -/
theorem test_addiRb_reads_ra :
    gives (stepOn 0x18 (st 11 2 0 true 0)) 11 11 0 false 1 [] = true := by decide

/-- V12. -/
theorem test_subiRb :
    gives (stepOn 0x1C (st 3 2 0 false 0)) 3 15 0 true 1 [] = true := by decide

/-- V13, V14: 13 does not fire the guard, 14 does. -/
theorem test_addrRo_guard :
    gives (stepOn 0x20 (st 6 7 0 false 2)) 6 7 13 false 3 [.ro 13] = true ∧
    gives (stepOn 0x20 (st 15 15 0 false 2)) 0 1 0 true 3 [.overflowReset, .ro 0] = true := by decide

/-- V15, V16: OVF_PC = Zero, and 21 masked to 5. -/
theorem test_addrRo_zero_and_masked :
    gives (stepOn 0x20 { st 7 7 5 false 2 with ovfPc := .zero }) 0 1 0 false 0 [.overflowReset, .ro 0] = true ∧
    gives (stepOn 0x20 (st 8 13 5 false 2)) 8 13 5 true 3 [.ro 5] = true := by decide

/-- V17. -/
theorem test_subrRo :
    gives (stepOn 0x24 (st 2 5 5 false 2)) 2 5 13 true 3 [.ro 13] = true := by decide

/-- V18, V19. -/
theorem test_addiRo_guard :
    gives (stepOn 0x28 (st 13 5 5 false 2)) 13 5 13 false 3 [.ro 13] = true ∧
    gives (stepOn 0x28 (st 14 5 5 false 2)) 0 1 0 false 3 [.overflowReset, .ro 0] = true := by decide

/-- V20. -/
theorem test_subiRo_guard :
    gives (stepOn 0x2F (st 6 5 5 false 2)) 0 1 0 true 3 [.overflowReset, .ro 0] = true := by decide

/-- V21, V22: both values of D11_UPDATES_CARRY. -/
theorem test_addrNone :
    gives (stepOn 0x30 (st 8 8 5 false 2)) 8 8 5 true 3 [] = true ∧
    gives (stepOn 0x30 { st 8 8 5 false 2 with d11UpdatesCarry := false }) 8 8 5 false 3 [] = true := by decide

/-- R133's example. -/
theorem test_subrNone :
    gives (stepOn 0x34 (st 1 2 3 false 2)) 1 2 3 true 3 [] = true := by decide

/-- R134's example. -/
theorem test_addiNone :
    gives (stepOn 0x39 (st 15 6 3 false 2)) 15 6 3 true 3 [] = true := by decide

/-- V23. -/
theorem test_subiNone :
    gives (stepOn 0x3F (st 3 8 5 false 2)) 3 8 5 true 3 [] = true := by decide

/-- V25, V27. -/
theorem test_j_priority_and_ignored_bits :
    gives (stepOn 0xC0 (st 3 8 5 true 6)) 3 8 5 true 0 [] = true ∧
    gives (stepOn 0xFF (st 3 8 5 false 2)) 3 8 5 false 7 [] = true := by decide

/-- V26. -/
theorem test_j_emits_ro :
    gives (stepOn 0xA5 (st 3 8 5 false 6)) 3 8 5 false 5 [.ro 5] = true := by decide

/-- V34, V36. -/
theorem test_jc_taken :
    gives (stepOn 0x5A (st 3 9 5 true 6)) 3 9 5 true 2 [] = true ∧
    gives (stepOn 0x6F (st 8 9 5 true 3)) 8 9 5 true 7 [.ro 5] = true := by decide

/-- V30, V31, V35. -/
theorem test_jc_not_taken :
    gives (stepOn 0x70 { st 8 8 5 false 6 with d11UpdatesCarry := false }) 8 8 5 false 7 [] = true ∧
    gives (stepOn 0x74 (st 3 8 5 false 6)) 3 8 5 true 7 [] = true ∧
    gives (stepOn 0x6F (st 8 9 5 false 6)) 8 9 1 false 7 [.ro 1] = true := by decide

/-! ## The run (spec/42_step.md, spec/95_test_vectors.md sections 6 and 7) -/

/-- P6, H1: the empty program halts at once with FinalRO(0). -/
theorem test_empty_program_halts :
    out (step (boot [] 'R')) = some { boot [] 'R' with status := .halted, events := [.finalRo 0] } := by decide

/-- H5: from PC = 255 PC becomes 256 and does not wrap. -/
theorem test_pc_reaches_256 : gives (exec (decode 0x00#8) (st 0 1 0 false 255)) 1 1 0 false 256 [] = true := by decide

/-- H6: a longer file is truncated to 256 bytes. -/
theorem test_boot_truncates : (Memory.load (List.replicate 300 0x20#8)).length = 256 := by
  rw [Memory.length_load, List.length_replicate]
  decide

/-- H7: the first step of `[0x20]` from reset. -/
theorem test_first_step : gives (step (boot [0x20#8] 'R')) 0 1 1 false 1 [.ro 1] = true := by decide

/-- H3: at the ceiling status stays Running; the report is the OPEN parameter. -/
theorem test_ceiling :
    stopAtCeilingWith true { boot [0x80#8] 'R' with steps := 50 } =
      { boot [0x80#8] 'R' with steps := 50, run := .ceilingStopped, events := [.finalRo 0] } ∧
    stopAtCeilingWith false { boot [0x80#8] 'R' with steps := 50 } =
      { boot [0x80#8] 'R' with steps := 50, run := .ceilingStopped } := by decide

/-- H4: under Stepped each step uses up a continue signal, and without one the core waits. -/
theorem test_stepped_gate :
    phase (boot [0x80#8] 'S') = .wait ∧
    out (step (giveContinue (boot [0x80#8] 'S'))) = some (boot [0x80#8] 'S') := by decide

/-- A terminated run emits nothing and is not halted (R172). -/
theorem test_terminate :
    (terminate (boot [0x80#8] 'S')).run = .terminated ∧ (terminate (boot [0x80#8] 'S')).status = .running ∧
    (terminate (boot [0x80#8] 'S')).events = [] := by decide

/-- R170: fetch_addr is presented while PC < N, and halted is 1 once the core halted. -/
theorem test_interface :
    fetchAddr (boot [0x80#8] 'R') = some 0 ∧ fetchAddr (boot [] 'R') = none ∧
    haltedOut (haltCore (boot [] 'R')) = true ∧ haltedOut (boot [] 'R') = false := by decide

/-! ## The assembler's table (R77 to R79) -/

theorem test_assemble_program : assemble ["RA=3", "RA = 3", "J=0"] = [0x0B#8, 0x70#8] := by decide
theorem test_rejected_lines : rejectedLines ["RA=3", "RA = 3", "J=0"] = ["RA = 3"] := by decide
theorem test_j_bytes :
    [1, 2, 3, 4, 5, 6, 7].map jByte = [0xB9#8, 0xB2#8, 0xBB#8, 0xBC#8, 0xBD#8, 0xBE#8, 0xBF#8] := by decide

/-- R79: JC=0 and J=0 assemble to the same byte. -/
theorem test_jc0_is_j0 : assembleLine "JC=0" = some 0x70#8 ∧ assembleLine "J=0" = some 0x70#8 := by decide

/-- Log entry 28: a blank line is rejected. -/
theorem test_blank_line : assemble ["RA=3", "", "J=0"] = [0x0B#8, 0x70#8] ∧ rejectedLines ["RA=3", ""] = [""] := by decide

/-! ## Witnesses: states and operands that meet the hypotheses of the statements -/

/-- A one-byte program at its start, under either policy. -/
def running (b : Byte) (p : RunPolicy) : State := { State.reset with imem := [(0, b)], policy := p, continues := 1 }

theorem running_inv (b : Byte) (p : RunPolicy) : State.Inv (running b p) where
  imem_wf := ⟨rfl, Nat.le_of_ble_eq_true rfl⟩
  pc_range := Nat.le_of_ble_eq_true rfl
  ro_range := Nat.le_of_ble_eq_true rfl
  events_range := nofun
  steps_bounded := fun _ => Nat.le_of_ble_eq_true rfl
  halted_outside := nofun
  ceiling_stop := nofun

/-- EveryStepKeepsRunInvariant, NoStepWritesInstructionBuffer, StepsOnlyAppendEvents. -/
theorem witness_everyStepKeepsRunInvariant :
    ∃ s t, State.Inv s ∧ step s = .next t :=
  ⟨running 0x20#8 .continuous, _, running_inv _ _, next_of_out (o := step (running 0x20#8 .continuous)) (t := (out (step (running 0x20#8 .continuous))).get (by decide)) (by decide)⟩

/-- StepNeverFaultsOrRefuses. -/
theorem witness_stepNeverFaultsOrRefuses :
    ∃ s : State, Memory.wf s.imem ∧ phase s = .execute :=
  ⟨running 0x20#8 .continuous, by decide⟩

/-- PcChangesOnlyAsListed, first clause. -/
theorem witness_pcChanges_noInstruction :
    ∃ s t, step s = .next t ∧ phase s ≠ .execute :=
  ⟨State.reset, _, next_of_out (o := step State.reset) (t := (out (step State.reset)).get (by decide)) (by decide), by decide⟩

/-- PcChangesOnlyAsListed, second clause, by J, with imm at its largest. -/
theorem witness_pcChanges_jump :
    ∃ s t b, step s = .next t ∧ phase s = .execute ∧ fetchByte s = some b ∧ (decodeFields b).j = true ∧
      (decodeFields b).imm = 7 :=
  ⟨running 0xFF#8 .continuous, _, 0xFF#8, next_of_out (o := step (running 0xFF#8 .continuous)) (t := (out (step (running 0xFF#8 .continuous))).get (by decide)) (by decide), by decide⟩

/-- PcChangesOnlyAsListed, second clause, by JC. -/
theorem witness_pcChanges_takenJc :
    ∃ s t b, step s = .next t ∧ phase s = .execute ∧ fetchByte s = some b ∧ (decodeFields b).c = true ∧ s.carry = true :=
  ⟨{ running 0x70#8 .continuous with carry := true }, _, 0x70#8,
    next_of_out (o := step { running 0x70#8 .continuous with carry := true }) (t := (out (step { running 0x70#8 .continuous with carry := true })).get (by decide)) (by decide), by decide⟩

/-- PcChangesOnlyAsListed, third clause, the guard under OVF_PC = Zero, at its threshold. -/
theorem witness_pcChanges_guardZero :
    ∃ s t b, step s = .next t ∧ phase s = .execute ∧ fetchByte s = some b ∧ jumpTaken (decodeFields b) s = false ∧
      s.ovfPc = .zero ∧ Event.overflowReset ∈ t.events.drop s.events.length :=
  ⟨{ running 0x28#8 .continuous with ra := 14, ovfPc := .zero }, _, 0x28#8,
    next_of_out (o := step { running 0x28#8 .continuous with ra := 14, ovfPc := .zero }) (t := (out (step { running 0x28#8 .continuous with ra := 14, ovfPc := .zero })).get (by decide)) (by decide), by decide⟩

/-- PcChangesOnlyAsListed, third clause, PC + 1. -/
theorem witness_pcChanges_increment :
    ∃ s t b, step s = .next t ∧ phase s = .execute ∧ fetchByte s = some b ∧ jumpTaken (decodeFields b) s = false ∧
      s.ovfPc = .increment :=
  ⟨running 0x00#8 .continuous, _, 0x00#8, next_of_out (o := step (running 0x00#8 .continuous)) (t := (out (step (running 0x00#8 .continuous))).get (by decide)) (by decide), by decide⟩

/-- RegistersWrittenOnlyThroughSelector, selector of ra. -/
theorem witness_registersWritten_ra :
    ∃ b s t, exec (decode b) s = .next t ∧ jumpTaken (decodeFields b) s = false ∧
      (decodeFields b).d1 = false ∧ (decodeFields b).d0 = false :=
  ⟨0x00#8, State.reset, _, rfl, by decide⟩

/-- RegistersWrittenOnlyThroughSelector, selector of rb. -/
theorem witness_registersWritten_rb :
    ∃ b s t, exec (decode b) s = .next t ∧ jumpTaken (decodeFields b) s = false ∧
      (decodeFields b).d1 = false ∧ (decodeFields b).d0 = true :=
  ⟨0x10#8, State.reset, _, rfl, by decide⟩

/-- RegistersWrittenOnlyThroughSelector, selector of ro. -/
theorem witness_registersWritten_ro :
    ∃ b s t, exec (decode b) s = .next t ∧ jumpTaken (decodeFields b) s = false ∧
      (decodeFields b).d1 = true ∧ (decodeFields b).d0 = false :=
  ⟨0x20#8, State.reset, _, rfl, by decide⟩

/-- RegistersWrittenOnlyThroughSelector, selector of discard. -/
theorem witness_registersWritten_discard :
    ∃ b s t, exec (decode b) s = .next t ∧ jumpTaken (decodeFields b) s = false ∧
      (decodeFields b).d1 = true ∧ (decodeFields b).d0 = true :=
  ⟨0x30#8, State.reset, _, rfl, by decide⟩

/-- RegistersWrittenOnlyThroughSelector, the guard at its threshold. -/
theorem witness_registersWritten_guard :
    ∃ b s t, exec (decode b) s = .next t ∧ jumpTaken (decodeFields b) s = false ∧
      Event.overflowReset ∈ t.events.drop s.events.length :=
  ⟨0x20#8, st 7 7 5 false 2, _, next_of_out (o := exec (decode 0x20#8) (st 7 7 5 false 2)) (t := (out (exec (decode 0x20#8) (st 7 7 5 false 2))).get (by decide)) (by decide), by decide⟩

/-- RegistersWrittenOnlyThroughSelector, a jump step. -/
theorem witness_registersWritten_jump :
    ∃ b s t, exec (decode b) s = .next t ∧ jumpTaken (decodeFields b) s = true :=
  ⟨0xA5#8, State.reset, _, rfl, by decide⟩

/-- CarryWrittenOnlyOnAluPath. -/
theorem witness_carryWrittenOnlyOnAluPath :
    ∃ b s t, exec (decode b) s = .next t ∧ t.carry ≠ s.carry :=
  ⟨0x00#8, st 15 1 0 false 0, _, next_of_out (o := exec (decode 0x00#8) (st 15 1 0 false 0)) (t := (out (exec (decode 0x00#8) (st 15 1 0 false 0))).get (by decide)) (by decide), by decide⟩

/-- CarryReadOnlyByJc. -/
theorem witness_carryReadOnlyByJc :
    ∃ (i : Instr) (s t : State), (∀ d sreg imm, i ≠ .jc d sreg imm) ∧ exec i s = .next t :=
  ⟨.addrRa 0, State.reset, _, nofun, rfl⟩

/-- RoIsNeverAnOperand, InstructionsKeepBufferStatusAndHost. -/
theorem witness_anyInstruction :
    ∃ (i : Instr) (s t : State), exec i s = .next t :=
  ⟨.addrRo 0, State.reset, _, rfl⟩

/-- DecodeUndoesEncode. -/
theorem witness_decodeUndoesEncode :
    ∃ i : Instr, i.wellFormed = true :=
  ⟨.subiRo 4, by decide⟩

/-- JumpMnemonicsDecode, third clause. -/
theorem witness_jumpMnemonicsDecode :
    ∃ k : Imm, k ≠ 0 :=
  ⟨7, by decide⟩

/-- RejectedLineEmitsNoByte. -/
theorem witness_rejectedLine :
    ∃ line : String, ∀ m ∈ mnemonicTable, spelling m ≠ line :=
  ⟨"JC=8", by decide⟩

/-- ModeCharacterSelectsPolicy. -/
theorem witness_policy :
    ∃ c : Char, c ≠ 'S' :=
  ⟨'x', by decide⟩

/-- AluAddWrapsWithCarry, at the boundary of each clause. -/
theorem witness_aluAdd :
    ∃ a b a' b' : Nibble, 15 < a.toNat + b.toNat ∧ a'.toNat + b'.toNat ≤ 15 :=
  ⟨15, 1, 7, 8, by decide⟩

/-- AluSubBorrows, at the boundary of each clause. -/
theorem witness_aluSub :
    ∃ a b a' b' : Nibble, a.toNat < b.toNat ∧ b'.toNat ≤ a'.toNat :=
  ⟨4, 5, 5, 5, by decide⟩

/-- TakenJcSetsOnlyPc, JumpsEmitRoBySelector. -/
theorem witness_takenJc :
    ∃ s : State, s.carry = true :=
  ⟨st 3 8 5 true 6, rfl⟩

/-- TakenJcSetsOnlyPc, last clause. -/
theorem witness_jcReadsLastCarry :
    ∃ s t, step s = .next t ∧
      ∀ b, phase s = .execute → fetchByte s = some b → jumpTaken (decodeFields b) s = true :=
  ⟨running 0x80#8 .continuous, _, next_of_out (o := step (running 0x80#8 .continuous)) (t := (out (step (running 0x80#8 .continuous))).get (by decide)) (by decide),
    fun b _ hb => by injection hb with hb; subst hb; decide⟩

/-- InterfaceShowsFetchEnableAndHalt, each clause. -/
theorem witness_interface :
    ∃ s u : State, s.pc < s.n ∧ u.n ≤ u.pc ∧ fetchAddr s = some 0 :=
  ⟨running 0x80#8 .continuous, State.reset, by decide⟩

/-- TerminatedRunIsUnfinished. -/
theorem witness_terminated :
    ∃ s : State, s.status = .running ∧ s.run = .active :=
  ⟨State.reset, by decide⟩

/-- NotTakenJcRunsItsAluPath, NotTakenAssemblerJcWritesOnlyCarry. -/
theorem witness_notTakenJc :
    ∃ s : State, s.carry = false :=
  ⟨st 8 8 5 false 6, rfl⟩

/-- StepRunsDecodedInstruction under continuous, at the boundary of the host's gate. -/
theorem witness_stepRunsDecoded_continuous :
    ∃ (s t : State) (b : Byte), s.status = .running ∧ s.run = .active ∧ s.pc < s.n ∧
      Memory.read s.imem s.pc = some b ∧ s.letRun ∧ exec (decode b) s = .next t ∧ s.policy = .continuous :=
  ⟨{ running 0x20#8 .continuous with steps := 49 }, _, 0x20#8, rfl, rfl, by decide, by decide, by decide, rfl, rfl⟩

/-- StepRunsDecodedInstruction under stepped, at the boundary of the host's gate. -/
theorem witness_stepRunsDecoded_stepped :
    ∃ (s t : State) (b : Byte), s.status = .running ∧ s.run = .active ∧ s.pc < s.n ∧
      Memory.read s.imem s.pc = some b ∧ s.letRun ∧ exec (decode b) s = .next t ∧ s.policy = .stepped :=
  ⟨running 0x20#8 .stepped, _, 0x20#8, rfl, rfl, by decide, by decide, by decide, rfl, rfl⟩

/-- StepRunsDecodedInstruction, second clause, each way. -/
theorem witness_noStepPossible :
    ∃ s u : State, s.status ≠ .running ∧ u.status = .running ∧ u.n ≤ u.pc :=
  ⟨{ State.reset with status := .halted }, State.reset, by decide⟩

/-- PlacedByteIsFetchedNext. -/
theorem witness_placedByte :
    ∃ (s : State) (w : Nat), w < 256 ∧ s.pc < 256 :=
  ⟨State.reset, 255, by decide⟩

/-- CoreHaltsWhenPcLeavesProgram, at the ceiling too. -/
theorem witness_coreHalts :
    ∃ s : State, s.status = .running ∧ s.run = .active ∧ s.n ≤ s.pc ∧ s.steps = 50 :=
  ⟨{ running 0x80#8 .continuous with pc := 1, steps := 50 }, by decide⟩

/-- EndedRunStaysAsItIs, each way a run ends. -/
theorem witness_endedRun :
    ∃ s u v : State, s.status = .halted ∧ u.run = .ceilingStopped ∧ v.run = .terminated :=
  ⟨haltCore State.reset, stopAtCeilingWith true State.reset, terminate State.reset, by decide⟩

/-- CeilingStopsContinuousRun, first clause, at its boundary. -/
theorem witness_ceilingStops :
    ∃ s : State, s.status = .running ∧ s.run = .active ∧ s.policy = .continuous ∧ 50 ≤ s.steps ∧ s.pc < s.n :=
  ⟨{ running 0x80#8 .continuous with steps := 50 }, by decide⟩

/-- CeilingStopsContinuousRun, second clause, where the clauses meet. -/
theorem witness_ceilingHaltsFirst :
    ∃ s : State, s.status = .running ∧ s.run = .active ∧ s.policy = .continuous ∧ 50 ≤ s.steps ∧ s.n ≤ s.pc :=
  ⟨{ running 0x80#8 .continuous with pc := 1, steps := 50 }, by decide⟩

/-- SIsTheTopBitOfImm, each clause at its boundary. -/
theorem witness_iForms :
    ∃ b b' : Byte, (decodeFields b).j = false ∧ (decodeFields b).c = false ∧ (decodeFields b).sreg = true ∧
      (decodeFields b).imm.toNat ≤ 3 ∧ (decodeFields b').j = false ∧ (decodeFields b').c = false ∧
      (decodeFields b').sreg = true ∧ 4 ≤ (decodeFields b').imm.toNat :=
  ⟨0x0B#8, 0x0C#8, by decide⟩

/-- SteppedWaitsForContinueSignal. -/
theorem witness_steppedWaits :
    ∃ s : State, s.status = .running ∧ s.run = .active ∧ s.pc < s.n ∧ s.policy = .stepped ∧ s.continues = 0 :=
  ⟨{ running 0x80#8 .stepped with continues := 0 }, by decide⟩

/-- StepCounterCountsAndIsNeverRead. -/
theorem witness_stepCounter :
    ∃ s t, s.policy = .continuous ∧ phase s = .execute ∧ step s = .next t :=
  ⟨running 0x20#8 .continuous, _, rfl, by decide, next_of_out (o := step (running 0x20#8 .continuous)) (t := (out (step (running 0x20#8 .continuous))).get (by decide)) (by decide)⟩

/-- StepCounterCountsAndIsNeverRead, last clause. -/
theorem witness_stepCounter_stepped :
    ∃ s : State, s.policy = .stepped :=
  ⟨running 0x20#8 .stepped, rfl⟩

/-- ContinuousRunEndsWithinFiftySteps. -/
theorem witness_continuousRunEnds :
    ∃ s : State, Memory.wf s.imem ∧ s.policy = .continuous ∧ s.status = .running ∧ s.run = .active ∧ s.steps ≤ 50 ∧
      s.pc < s.n :=
  ⟨running 0x80#8 .continuous, by decide⟩

end Sys2Proof.Tests
end

section
/-! Proofs of the family spec/10_state.md: reset values, and what may change PC (R28, R35). -/

namespace Sys2Proof.Machine

/-! ## What a decoded byte does, by its fields -/

/-- Bit 2 of a byte is both the field S and the top bit of imm (R69). -/
theorem decodeFields_imm_bit2 (b : Byte) : (decodeFields b).imm.getLsbD 2 = (decodeFields b).s := by
  simp [decodeFields]

/-- A jump step (R161) is `jumpStep` with the byte's own selector and immediate. -/
theorem exec_decode_of_jumpTaken {b : Byte} {s : State} (h : jumpTaken (decodeFields b) s = true) :
    exec (decode b) s =
      .next (jumpStep (destOfBits (decodeFields b).d1 (decodeFields b).d0) (decodeFields b).imm s) := by
  cases hj : (decodeFields b).j with
  | true => simp [decode, instrOfFields, hj, exec, execJ]
  | false =>
    obtain ⟨hc, hcarry⟩ : (decodeFields b).c = true ∧ s.carry = true := by simpa [jumpTaken, hj] using h
    simpa [decode, instrOfFields, hj, hc, exec] using execJc_taken _ _ _ hcarry

/-- The sixteen ALU-class rows of the opcode map (R72): each is `aluStep` with its operation, operand and selector. -/
theorem exec_instrOfFields_alu {f : Fields} (hj : f.j = false) (hc : f.c = false) (s : State) :
    exec (instrOfFields f) s =
      .next (aluStep (opOfS f.s) (operandOfSreg f.sreg f.imm) (destOfBits f.d1 f.d0) s) := by
  obtain ⟨j, c, d1, d0, sreg, sub, imm⟩ := f
  subst hj hc
  cases d1 <;> cases d0 <;> cases sreg <;> cases sub <;> rfl

/-- Every step that is no jump step (R161) is `aluStep` with the byte's own fields, the not-taken JC included (R142). -/
theorem exec_decode_of_not_jumpTaken {b : Byte} {s : State} (h : jumpTaken (decodeFields b) s = false) :
    exec (decode b) s =
      .next (aluStep (opOfS (decodeFields b).s) (operandOfSreg (decodeFields b).sreg (decodeFields b).imm)
        (destOfBits (decodeFields b).d1 (decodeFields b).d0) s) := by
  obtain ⟨hj, hjc⟩ : (decodeFields b).j = false ∧ ((decodeFields b).c = true → s.carry = false) := by
    simpa [jumpTaken] using h
  cases hc : (decodeFields b).c with
  | true =>
    rw [← decodeFields_imm_bit2]
    simpa [decode, instrOfFields, hj, hc, exec] using execJc_notTaken _ _ _ (hjc hc)
  | false => exact exec_instrOfFields_alu hj hc s

/-- The spelling of the jump condition that R28 uses. -/
theorem jumpTaken_iff (f : Fields) (s : State) :
    jumpTaken f s = true ↔ f.j = true ∨ (f.c = true ∧ s.carry = true) := by
  simp [jumpTaken]

/-! ## PC -/

@[simp] theorem haltCore_pc (s : State) : (haltCore s).pc = s.pc := rfl

@[simp] theorem stopAtCeiling_pc (s : State) : (stopAtCeiling s).pc = s.pc := by
  rw [stopAtCeiling, stopAtCeilingWith_eq]

@[simp] theorem countStep_pc (s : State) : (countStep s).pc = s.pc := by rw [countStep_eq]

@[simp] theorem countStep_events (s : State) : (countStep s).events = s.events := by rw [countStep_eq]

@[simp] theorem jumpStep_pc (d : Dest) (imm : Imm) (s : State) : (jumpStep d imm s).pc = imm.toNat := by
  rw [jumpStep_eq]

/-- An ALU-path step adds 1 to PC, unless the guard fired, which its event shows, under `OVF_PC = Zero` (R111). -/
theorem aluStep_pc (op : AluOp) (o : Operand) (d : Dest) (s : State) :
    (aluStep op o d s).pc =
      if s.ovfPc = .zero ∧ .overflowReset ∈ (aluStep op o d s).events.drop s.events.length then 0 else s.pc + 1 := by
  cases d with
  | ra => simp [aluStep_ra]
  | rb => simp [aluStep_rb]
  | discard => simp [aluStep_discard]
  | ro =>
    cases h : exceedsThreshold (alu op s.ra (rightOperand o s)).1 with
    | false => simp [aluStep_ro_quiet op o s h]
    | true => simp [aluStep_ro_fired op o s h]

/-- A step that executes no instruction leaves PC alone. -/
theorem step_pc_of_not_execute {s t : State} (h : step s = .next t) (hp : phase s ≠ .execute) : t.pc = s.pc := by
  obtain ⟨-, rfl⟩ | ⟨-, rfl⟩ | ⟨he, -⟩ | ⟨-, rfl⟩ | ⟨-, rfl⟩ := step_cases h
  · rfl
  · exact haltCore_pc s
  · exact absurd he hp
  · exact stopAtCeiling_pc s
  · rfl

/-- A step that executes an instruction leaves what the fetched byte's meaning leaves, after the host's bookkeeping
(R160). -/
theorem eq_countStep_of_step_execute {s t u : State} {b : Byte} (h : step s = .next t) (hp : phase s = .execute)
    (hb : fetchByte s = some b) (hu : exec (decode b) s = .next u) : t = countStep u := by
  simpa [hp, hb, hu] using step_cases h

/-! ## The obligations -/

/-- Settles O1, from the reset value of each field. -/
theorem resetGivesRunStartValues : Obligations.ResetGivesRunStartValues :=
  ⟨State.reset_ra, State.reset_rb, State.reset_ro, State.reset_pc, State.reset_carry, State.reset_status⟩

/-- Settles O6: a step without an instruction keeps PC, and an executed byte is a jump step or an ALU-path step by its
fields. -/
theorem pcChangesOnlyAsListed : Obligations.PcChangesOnlyAsListed := by
  refine ⟨State.reset_pc, fun s t h => ⟨step_pc_of_not_execute h, fun b hp hb => ?_⟩⟩
  rw [← jumpTaken_iff, Bool.not_eq_true]
  constructor
  · intro hj
    obtain rfl := eq_countStep_of_step_execute h hp hb (exec_decode_of_jumpTaken hj)
    simp only [countStep_pc, jumpStep_pc, true_and]
    omega
  · intro hj
    obtain rfl := eq_countStep_of_step_execute h hp hb (exec_decode_of_not_jumpTaken hj)
    simpa using aluStep_pc _ _ _ s

end Sys2Proof.Machine
end

section
/-! Proofs of the family spec/30_encoding.md: the decoded fields as bits of the byte (R62, R63, R68). -/

namespace Sys2Proof.Machine

/-- Bit `i` of a byte is `b div 2^i mod 2`: each one-bit field is a bit of the byte, read over its number (R62). -/
theorem byte_getLsbD_eq_div_mod (b : Byte) (i : Nat) : b.getLsbD i = decide (b.toNat / 2 ^ i % 2 = 1) := by
  rw [← BitVec.testBit_toNat, Nat.testBit_eq_decide_div_mod_eq]

/-- The immediate is the byte's low three bits, S among them (R63). -/
theorem decodeFields_imm_toNat (b : Byte) : (decodeFields b).imm.toNat = b.toNat % 8 := by
  simp [decodeFields]

/-- Settles O14: the one-bit fields are the bits 7 down to 2, and the immediate is the low three bits. -/
theorem fieldsAreTheBitsOfTheByte : Obligations.FieldsAreTheBitsOfTheByte := fun b =>
  ⟨byte_getLsbD_eq_div_mod b 7, byte_getLsbD_eq_div_mod b 6, byte_getLsbD_eq_div_mod b 5,
    byte_getLsbD_eq_div_mod b 4, byte_getLsbD_eq_div_mod b 3, byte_getLsbD_eq_div_mod b 2,
    decodeFields_imm_toNat b⟩

end Sys2Proof.Machine
end

section
/-! Proofs of the family spec/40_alu.md: the ALU (R100, R101) and the eight ALU-class instructions that write RA or RB
(R120 to R127). -/

namespace Sys2Proof.Machine

/-! ## The ALU over numbers -/

/-- Add, with the right operand given by its number. -/
theorem alu_add_of_toNat {a b : Nibble} {n : Nat} (h : b.toNat = n) :
    alu .add a b = (BitVec.ofNat 4 (a.toNat + n), decide (15 < a.toNat + n)) := by
  subst h
  rw [alu_add, BitVec.ofNat_add, BitVec.ofNat_toNat, BitVec.ofNat_toNat, BitVec.setWidth_eq, BitVec.setWidth_eq]

/-- Subtract, with the right operand given by its number; the 16 keeps the difference of numbers from being cut off at
0. -/
theorem alu_sub_of_toNat {a b : Nibble} {n : Nat} (h : b.toNat = n) :
    alu .sub a b = (BitVec.ofNat 4 (16 + a.toNat - n), decide (a.toNat < n)) := by
  subst h
  have hdiff : a - b = BitVec.ofNat 4 (16 + a.toNat - b.toNat) := by
    bv_omega
  rw [alu_sub, hdiff]

/-! ## ALU-path steps into RA and RB, over numbers -/

section
variable {o : Operand} {s : State} {n : Nat}

theorem aluStep_add_ra (h : (rightOperand o s).toNat = n) :
    aluStep .add o .ra s =
      { s with ra := BitVec.ofNat 4 (s.ra.toNat + n), carry := decide (15 < s.ra.toNat + n), pc := s.pc + 1 } := by
  rw [aluStep_ra, alu_add_of_toNat h]

theorem aluStep_sub_ra (h : (rightOperand o s).toNat = n) :
    aluStep .sub o .ra s =
      { s with ra := BitVec.ofNat 4 (16 + s.ra.toNat - n), carry := decide (s.ra.toNat < n), pc := s.pc + 1 } := by
  rw [aluStep_ra, alu_sub_of_toNat h]

theorem aluStep_add_rb (h : (rightOperand o s).toNat = n) :
    aluStep .add o .rb s =
      { s with rb := BitVec.ofNat 4 (s.ra.toNat + n), carry := decide (15 < s.ra.toNat + n), pc := s.pc + 1 } := by
  rw [aluStep_rb, alu_add_of_toNat h]

theorem aluStep_sub_rb (h : (rightOperand o s).toNat = n) :
    aluStep .sub o .rb s =
      { s with rb := BitVec.ofNat 4 (16 + s.ra.toNat - n), carry := decide (s.ra.toNat < n), pc := s.pc + 1 } := by
  rw [aluStep_rb, alu_sub_of_toNat h]

end

/-! ## The immediates of an I form -/

/-- The immediate of an adding I form is the number of the byte's bits 1..0: 0 to 3 (R122). -/
theorem rightOperand_addImm_toNat (k : BitVec 2) (s : State) :
    (rightOperand (.imm (k.setWidth 3)) s).toNat = k.toNat := by
  rw [rightOperand_imm, zextImm_toNat, BitVec.toNat_setWidth_of_le (by decide)]

/-- The immediate of a subtracting I form is 4 more than the number of the byte's bits 1..0: 4 to 7 (R123). -/
theorem rightOperand_subImm_toNat (k : BitVec 2) (s : State) :
    (rightOperand (.imm (4 + k.setWidth 3)) s).toNat = 4 + k.toNat := by
  rw [rightOperand_imm, zextImm_toNat]
  bv_omega

/-! ## The eight rows' bytes -/

theorem decode_addrRa : ∀ x : BitVec 2, decode (0b000000#6 ++ x : BitVec 8) = .addrRa x := by decide
theorem decode_subrRa : ∀ x : BitVec 2, decode (0b000001#6 ++ x : BitVec 8) = .subrRa x := by decide
theorem decode_addiRa : ∀ k : BitVec 2, decode (0b000010#6 ++ k : BitVec 8) = .addiRa (k.setWidth 3) := by decide
theorem decode_subiRa : ∀ k : BitVec 2, decode (0b000011#6 ++ k : BitVec 8) = .subiRa (4 + k.setWidth 3) := by decide
theorem decode_addrRb : ∀ x : BitVec 2, decode (0b000100#6 ++ x : BitVec 8) = .addrRb x := by decide
theorem decode_subrRb : ∀ x : BitVec 2, decode (0b000101#6 ++ x : BitVec 8) = .subrRb x := by decide
theorem decode_addiRb : ∀ k : BitVec 2, decode (0b000110#6 ++ k : BitVec 8) = .addiRb (k.setWidth 3) := by decide
theorem decode_subiRb : ∀ k : BitVec 2, decode (0b000111#6 ++ k : BitVec 8) = .subiRb (4 + k.setWidth 3) := by decide

/-! ## The assembler's lines -/

/-- The spellings of the table are pairwise different, so each is read back as its own mnemonic (R77, R78). -/
theorem readLine_spelling (m : Mnemonic) : readLine (spelling m) = some m := by
  cases m with
  | ra k => revert k; decide
  | rb k => revert k; decide
  | jc k => revert k; decide
  | j k => revert k; decide
  | _ => decide

/-- A line of the table assembles to its mnemonic's byte. -/
theorem assembleLine_spelling (m : Mnemonic) : assembleLine (spelling m) = some (assembleMnemonic m) := by
  rw [assembleLine, readLine_spelling, Option.map_some]

/-! ## The obligations -/

/-- Settles O22: the 4-bit sum is the sum of the numbers mod 16. -/
theorem aluAddWrapsWithCarry : Obligations.AluAddWrapsWithCarry := by
  intro a b
  rw [alu_add]
  refine ⟨fun h => ⟨?_, decide_eq_true h⟩, fun h => ⟨?_, decide_eq_false (Nat.not_lt.mpr h)⟩⟩ <;> bv_omega

/-- Settles O23: the 4-bit difference is the difference of the numbers mod 16. -/
theorem aluSubBorrows : Obligations.AluSubBorrows := by
  intro a b
  rw [alu_sub]
  refine ⟨fun h => ⟨?_, decide_eq_true h⟩, fun h => ⟨?_, decide_eq_false (Nat.not_lt.mpr h)⟩⟩ <;> bv_omega

/-- Settles O24: ADDR.RA is the adding ALU-path step of RA and RB into RA. -/
theorem addRegisterIntoRa : Obligations.AddRegisterIntoRa := fun x _ =>
  ⟨decode_addrRa x, assembleLine_spelling .raPlusRb, congrArg Host.Outcome.next (aluStep_add_ra rfl)⟩

/-- Settles O25: SUBR.RA is the subtracting ALU-path step of RA and RB into RA. -/
theorem subRegisterIntoRa : Obligations.SubRegisterIntoRa := fun x _ =>
  ⟨decode_subrRa x, assembleLine_spelling .raMinusRb, congrArg Host.Outcome.next (aluStep_sub_ra rfl)⟩

/-- Settles O26: ADDI.RA is the adding ALU-path step of RA and the immediate into RA. -/
theorem addImmIntoRa : Obligations.AddImmIntoRa := fun k s =>
  ⟨decode_addiRa k, assembleLine_spelling (.ra 0), assembleLine_spelling (.ra 1), assembleLine_spelling (.ra 2),
    assembleLine_spelling (.ra 3), congrArg Host.Outcome.next (aluStep_add_ra (rightOperand_addImm_toNat k s))⟩

/-- Settles O27: SUBI.RA is the subtracting ALU-path step of RA and the immediate into RA. -/
theorem subImmIntoRa : Obligations.SubImmIntoRa := fun k s =>
  ⟨decode_subiRa k, assembleLine_spelling (.ra 4), assembleLine_spelling (.ra 5), assembleLine_spelling (.ra 6),
    assembleLine_spelling (.ra 7), congrArg Host.Outcome.next (aluStep_sub_ra (rightOperand_subImm_toNat k s))⟩

/-- Settles O28: ADDR.RB is the adding ALU-path step of RA and RB into RB. -/
theorem addRegisterIntoRb : Obligations.AddRegisterIntoRb := fun x _ =>
  ⟨decode_addrRb x, assembleLine_spelling .rbPlusRb, congrArg Host.Outcome.next (aluStep_add_rb rfl)⟩

/-- Settles O29: SUBR.RB is the subtracting ALU-path step of RA and RB into RB. -/
theorem subRegisterIntoRb : Obligations.SubRegisterIntoRb := fun x _ =>
  ⟨decode_subrRb x, assembleLine_spelling .rbMinusRb, congrArg Host.Outcome.next (aluStep_sub_rb rfl)⟩

/-- Settles O30: ADDI.RB is the adding ALU-path step of RA and the immediate into RB. -/
theorem addImmIntoRb : Obligations.AddImmIntoRb := fun k s =>
  ⟨decode_addiRb k, assembleLine_spelling (.rb 0), assembleLine_spelling (.rb 1), assembleLine_spelling (.rb 2),
    assembleLine_spelling (.rb 3), congrArg Host.Outcome.next (aluStep_add_rb (rightOperand_addImm_toNat k s))⟩

/-- Settles O31: SUBI.RB is the subtracting ALU-path step of RA and the immediate into RB. -/
theorem subImmIntoRb : Obligations.SubImmIntoRb := fun k s =>
  ⟨decode_subiRb k, assembleLine_spelling (.rb 4), assembleLine_spelling (.rb 5), assembleLine_spelling (.rb 6),
    assembleLine_spelling (.rb 7), congrArg Host.Outcome.next (aluStep_sub_rb (rightOperand_subImm_toNat k s))⟩

end Sys2Proof.Machine
end

section
/-! Proofs of the family spec/41_jump.md: the two jumps, and the Carry a JC reads (R140, R141). -/

namespace Sys2Proof.Machine

/-! ## The bytes of the two jumps -/

/-- Reading a selector's two bits gives back the destination it was written for (R64). -/
theorem destOfBits_destBits (d : Dest) : destOfBits ((destBits d).getLsbD 1) ((destBits d).getLsbD 0) = d := by
  cases d <;> rfl

/-- A byte with bit 7 set is a J, its bit 6 no matter (R140). -/
theorem decode_jBits : ∀ (c g : Bool) (sel : BitVec 2) (imm : Imm),
    decode (0b1#1 ++ BitVec.ofBool c ++ sel ++ BitVec.ofBool g ++ imm : BitVec 8) =
      .j c (destOfBits (sel.getLsbD 1) (sel.getLsbD 0)) g imm := by
  decide

/-- A byte with bits 7:6 = 01 is a JC (R141). -/
theorem decode_jcBits : ∀ (g : Bool) (sel : BitVec 2) (imm : Imm),
    decode (0b01#2 ++ sel ++ BitVec.ofBool g ++ imm : BitVec 8) =
      .jc (destOfBits (sel.getLsbD 1) (sel.getLsbD 0)) g imm := by
  decide

theorem decode_encode_j (c : Bool) (d : Dest) (g : Bool) (imm : Imm) :
    decode (encode (.j c d g imm)) = .j c d g imm := by
  rw [encode, decode_jBits, destOfBits_destBits]

theorem decode_encode_jc (d : Dest) (g : Bool) (imm : Imm) : decode (encode (.jc d g imm)) = .jc d g imm := by
  rw [encode, decode_jcBits, destOfBits_destBits]

/-! ## What the two jumps answer -/

theorem exec_j (c : Bool) (d : Dest) (g : Bool) (imm : Imm) (s : State) :
    exec (.j c d g imm) s = .next (jumpStep d imm s) := rfl

theorem exec_jc_taken (d : Dest) (g : Bool) (imm : Imm) {s : State} (h : s.carry = true) :
    exec (.jc d g imm) s = .next (jumpStep d imm s) :=
  execJc_taken d g imm h

/-! ## Carry -/

@[simp] theorem haltCore_carry (s : State) : (haltCore s).carry = s.carry := rfl

@[simp] theorem stopAtCeiling_carry (s : State) : (stopAtCeiling s).carry = s.carry := by
  rw [stopAtCeiling, stopAtCeilingWith_eq]

@[simp] theorem countStep_carry (s : State) : (countStep s).carry = s.carry := by rw [countStep_eq]

@[simp] theorem jumpStep_carry (d : Dest) (imm : Imm) (s : State) : (jumpStep d imm s).carry = s.carry := by
  rw [jumpStep_eq]

/-- A step that takes no ALU path, since it executes no instruction or takes a jump, leaves Carry alone (R30, R141). -/
theorem step_carry_of_no_aluPath {s t : State} (h : step s = .next t)
    (hj : ∀ b, phase s = .execute → fetchByte s = some b → jumpTaken (decodeFields b) s = true) :
    t.carry = s.carry := by
  obtain ⟨-, rfl⟩ | ⟨-, rfl⟩ | ⟨hp, b, u, hb, hu, rfl⟩ | ⟨-, rfl⟩ | ⟨-, rfl⟩ := step_cases h
  · rfl
  · exact haltCore_carry s
  · rw [exec_decode_of_jumpTaken (hj b hp hb)] at hu
    obtain rfl := Host.Outcome.next.inj hu
    rw [countStep_carry, jumpStep_carry]
  · exact stopAtCeiling_carry s
  · rfl

/-! ## The obligations -/

/-- Settles O40: J is `jumpStep` whatever its ignored bits and Carry. -/
theorem jumpSetsOnlyPc : Obligations.JumpSetsOnlyPc := fun c g d imm s =>
  ⟨decode_encode_j c d g imm, (jumpStep d imm s).events, by rw [exec_j, jumpStep_eq]⟩

/-- Settles O41: with Carry = 1 JC is `jumpStep`, and no step without an ALU path writes the Carry it reads. -/
theorem takenJcSetsOnlyPc : Obligations.TakenJcSetsOnlyPc := by
  refine ⟨fun g d imm s => ⟨decode_encode_jc d g imm, fun hcarry => ⟨(jumpStep d imm s).events, ?_⟩⟩,
    State.reset_carry, fun s t => step_carry_of_no_aluPath⟩
  rw [exec_jc_taken d g imm hcarry, jumpStep_eq, hcarry]

end Sys2Proof.Machine
end

section
/-! Proofs of the family spec/42_step.md: the host's step counter (R168). -/

namespace Sys2Proof.Machine

/-! ## What one instruction does, from every state with the same Carry -/

/-- Which path an instruction takes depends on the instruction and Carry alone: every state with the same Carry takes
the ALU path with the same operands and selector, or the same jump (R140 to R142, R161). -/
theorem exec_path_of_carry (i : Instr) (c : Bool) :
    (∃ op o d, ∀ s : State, s.carry = c → exec i s = .next (aluStep op o d s)) ∨
    (∃ d imm, ∀ s : State, s.carry = c → exec i s = .next (jumpStep d imm s)) := by
  cases i with
  | jc d sreg imm =>
    cases c with
    | false => exact .inl ⟨_, _, _, fun _ hc => execJc_notTaken d sreg imm hc⟩
    | true => exact .inr ⟨_, _, fun _ hc => exec_jc_taken d sreg imm hc⟩
  | j c d sreg imm => exact .inr ⟨_, _, fun s _ => exec_j c d sreg imm s⟩
  | _ => exact .inl ⟨_, _, _, fun _ _ => rfl⟩

/-- The host's policy and counter are no business of an instruction. -/
theorem exec_policy_steps {i : Instr} {s t : State} (h : exec i s = .next t) :
    t.policy = s.policy ∧ t.steps = s.steps := by
  obtain ⟨op, o, d, rfl⟩ | ⟨d, imm, rfl⟩ := exec_cases h
  · obtain ⟨_, _, _, _, _, _, hframe⟩ := aluStep_frame op o d s
    rw [hframe]
    exact ⟨rfl, rfl⟩
  · obtain ⟨_, hframe⟩ := jumpStep_frame d imm s
    rw [hframe]
    exact ⟨rfl, rfl⟩

/-! ## Another count before the step is that other count after it -/

@[simp] theorem rightOperand_setSteps (o : Operand) (k : Nat) (s : State) :
    rightOperand o (s.setSteps k) = rightOperand o s := by
  cases o <;> rfl

theorem aluStep_setSteps (op : AluOp) (o : Operand) (d : Dest) (k : Nat) (s : State) :
    aluStep op o d (s.setSteps k) = (aluStep op o d s).setSteps k := by
  cases d with
  | ra => rw [aluStep_ra, aluStep_ra, rightOperand_setSteps]; rfl
  | rb => rw [aluStep_rb, aluStep_rb, rightOperand_setSteps]; rfl
  | discard => rw [aluStep_discard, aluStep_discard, rightOperand_setSteps]; rfl
  | ro =>
    cases h : exceedsThreshold (alu op s.ra (rightOperand o s)).1 with
    | false =>
      rw [aluStep_ro_quiet op o s h, aluStep_ro_quiet op o (s.setSteps k) (by simpa using h), rightOperand_setSteps]
      rfl
    | true =>
      rw [aluStep_ro_fired op o s h, aluStep_ro_fired op o (s.setSteps k) (by simpa using h), rightOperand_setSteps]
      rfl

theorem jumpStep_setSteps (d : Dest) (imm : Imm) (k : Nat) (s : State) :
    jumpStep d imm (s.setSteps k) = (jumpStep d imm s).setSteps k := by
  cases d <;> rfl

/-- No instruction reads the counter, and none writes it (R168). -/
theorem exec_setSteps {i : Instr} {s t : State} (k : Nat) (h : exec i s = .next t) :
    exec i (s.setSteps k) = .next (t.setSteps k) := by
  obtain ⟨op, o, d, hpath⟩ | ⟨d, imm, hpath⟩ := exec_path_of_carry i s.carry
  all_goals
    rw [hpath s rfl] at h
    obtain rfl := Host.Outcome.next.inj h
    rw [hpath (s.setSteps k) rfl]
  · rw [aluStep_setSteps]
  · rw [jumpStep_setSteps]

/-! ## The host's side -/

/-- An executed step under `Continuous` is counted (R168). -/
theorem step_steps_of_execute_continuous {s t : State} (hpol : s.policy = .continuous) (hp : phase s = .execute)
    (h : step s = .next t) : t.steps = s.steps + 1 := by
  obtain ⟨b, u, -, hu, rfl⟩ : ∃ b u, fetchByte s = some b ∧ exec (decode b) s = .next u ∧ t = countStep u := by
    simpa [hp] using step_cases h
  obtain ⟨hupol, husteps⟩ := exec_policy_steps hu
  simp [countStep_eq, hupol, hpol, husteps]

/-- Under `Stepped` the continue signal alone enables a step, so the counter decides nothing (R167, R168). -/
theorem phase_setSteps_of_stepped {s : State} (k : Nat) (hpol : s.policy = .stepped) :
    phase (s.setSteps k) = phase s := by
  have henable : stepEnable (s.setSteps k) = stepEnable s := by
    rw [stepEnable_stepped hpol, stepEnable_stepped (s := s.setSteps k) hpol, State.setSteps_continues]
  rw [phase, henable]
  rfl

/-! ## The obligation -/

/-- Settles O56: the counter moves only in the host's bookkeeping of an executed step, every path of an instruction
commutes with setting it, and under `Stepped` the next step is chosen without it. -/
theorem stepCounterCountsAndIsNeverRead : Obligations.StepCounterCountsAndIsNeverRead :=
  ⟨State.reset_steps, fun _ _ => step_steps_of_execute_continuous, fun _ _ _ => exec_setSteps,
    fun _ => phase_setSteps_of_stepped⟩

end Sys2Proof.Machine
end

section
/-! Proofs about the run: the invariant, the frame of a step, the phases of a run and its end (spec/42_step.md,
spec/20_memory.md section 5, spec/60_exceptions.md). -/

namespace Sys2Proof.Machine

/-! ## What decides the next step -/

theorem runOver_eq_true_iff (s : State) : runOver s = true ↔ s.status = .halted ∨ s.run ≠ .active := by
  cases h : s.status <;> simp [runOver, h]

/-- The host's gate in the terms of the claims (R167, R170). -/
theorem stepEnable_iff_letRun (s : State) : stepEnable s = true ↔ s.letRun := by
  cases h : s.policy with
  | continuous => simp [stepEnable_continuous h, State.letRun, h]
  | stepped => simp [stepEnable_stepped h, State.letRun, h]

theorem phase_of_ended {s : State} (h : s.status = .halted ∨ s.run ≠ .active) : phase s = .ended := by
  rw [phase, if_pos ((runOver_eq_true_iff s).mpr h)]

section
variable {s : State}

theorem phase_of_pc_ge (hst : s.status = .running) (hrun : s.run = .active) (hpc : s.n ≤ s.pc) : phase s = .halt := by
  simp [phase, (runOver_eq_false_iff s).mpr ⟨hst, hrun⟩, hpc]

/-- A running core inside its program executes an instruction, or is held by its host's policy (R160, R167). -/
theorem phase_of_pc_lt (hst : s.status = .running) (hrun : s.run = .active) (hpc : s.pc < s.n) :
    phase s = if stepEnable s then .execute else heldPhase s.policy := by
  simp [phase, (runOver_eq_false_iff s).mpr ⟨hst, hrun⟩, Nat.not_le.mpr hpc]

/-- A core that halts was running, with PC outside the program (R163). -/
theorem of_phase_halt (h : phase s = .halt) : s.status = .running ∧ s.run = .active ∧ s.n ≤ s.pc := by
  simpa [h, runOver_eq_false_iff, and_assoc] using phase_cases s

/-- A core that executes an instruction was running, inside the program, and let run by its host (R160). -/
theorem of_phase_execute (h : phase s = .execute) :
    s.status = .running ∧ s.run = .active ∧ s.pc < s.n ∧ s.letRun := by
  simpa [h, runOver_eq_false_iff, and_assoc, stepEnable_iff_letRun] using phase_cases s

/-- A run that stops at the ceiling was running, inside the program, with its steps used up (R167). -/
theorem of_phase_ceiling (h : phase s = .ceiling) :
    s.status = .running ∧ s.run = .active ∧ s.pc < s.n ∧ s.policy = .continuous ∧ 50 ≤ s.steps := by
  obtain ⟨hover, hpc, hen, hpol⟩ : runOver s = false ∧ s.pc < s.n ∧ stepEnable s = false ∧ s.policy = .continuous := by
    simpa [h] using phase_cases s
  obtain ⟨hst, hrun⟩ := (runOver_eq_false_iff s).mp hover
  exact ⟨hst, hrun, hpc, hpol, by simpa [stepEnable_continuous hpol] using hen⟩

/-! ## What a step answers in each phase -/

theorem step_of_ended (h : phase s = .ended) : step s = .next s := by rw [step, h]

theorem step_of_halt (h : phase s = .halt) : step s = .next (haltCore s) := by rw [step, h]

theorem step_of_ceiling (h : phase s = .ceiling) : step s = .next (stopAtCeiling s) := by rw [step, h]

theorem step_of_wait (h : phase s = .wait) : step s = .next s := by rw [step, h]

theorem step_of_execute {b : Byte} {t : State} (h : phase s = .execute) (hb : fetchByte s = some b)
    (ht : exec (decode b) s = .next t) : step s = .next (countStep t) := by
  simp [step, h, executeNext, hb, ht]

end

/-! ## What one instruction does to the rest of the state -/

/-- Every instruction completes (R113). -/
theorem exec_completes (i : Instr) (s : State) : ∃ t, exec i s = .next t := by
  obtain ⟨op, o, d, hpath⟩ | ⟨d, imm, hpath⟩ := exec_path_of_carry i s.carry
  · exact ⟨_, hpath s rfl⟩
  · exact ⟨_, hpath s rfl⟩

/-- The registers, PC, Carry and appended events are all that an instruction changes (R53, R221). -/
theorem exec_frame {i : Instr} {s t : State} (h : exec i s = .next t) :
    ∃ a b r p c es, t = { s with ra := a, rb := b, ro := r, pc := p, carry := c, events := s.events ++ es } := by
  obtain ⟨op, o, d, rfl⟩ | ⟨d, imm, rfl⟩ := exec_cases h
  · exact aluStep_frame op o d s
  · obtain ⟨es, hframe⟩ := jumpStep_frame d imm s
    exact ⟨_, _, _, _, _, es, hframe⟩

/-- The events of an instruction: none, RO's value after it, or the guard's reset followed by RO(0) (R164, R165). -/
theorem exec_events {i : Instr} {s t : State} (h : exec i s = .next t) :
    t.events = s.events ∨ t.events = s.events ++ [.ro t.ro] ∨ t.events = s.events ++ [.overflowReset, .ro 0] := by
  obtain ⟨op, o, d, rfl⟩ | ⟨d, imm, rfl⟩ := exec_cases h
  · cases d with
    | ro =>
      cases hfire : exceedsThreshold (alu op s.ra (rightOperand o s)).1 with
      | false => rw [aluStep_ro_quiet op o s hfire]; exact .inr (.inl rfl)
      | true => rw [aluStep_ro_fired op o s hfire]; exact .inr (.inr rfl)
    | ra => exact .inl rfl
    | rb => exact .inl rfl
    | discard => rw [aluStep_discard]; exact .inl rfl
  · cases d with
    | ro => exact .inr (.inl rfl)
    | _ => exact .inl rfl

theorem exceedsThreshold_eq_false_iff (v : Nibble) : exceedsThreshold v = false ↔ v.toNat ≤ 13 := by
  rw [← Bool.not_eq_true, exceedsThreshold_iff, Nat.not_lt]

/-- The guard keeps RO in 0..13 at the end of every instruction (R36, R110). -/
theorem exec_ro_range {i : Instr} {s t : State} (h : exec i s = .next t) (hs : s.ro.toNat ≤ 13) : t.ro.toNat ≤ 13 := by
  obtain ⟨op, o, d, rfl⟩ | ⟨d, imm, rfl⟩ := exec_cases h
  · cases d with
    | ro =>
      cases hfire : exceedsThreshold (alu op s.ra (rightOperand o s)).1 with
      | false =>
        rw [aluStep_ro_quiet op o s hfire]
        exact (exceedsThreshold_eq_false_iff _).mp hfire
      | true => rw [aluStep_ro_fired op o s hfire]; exact Nat.zero_le 13
    | ra => exact hs
    | rb => exact hs
    | discard => rw [aluStep_discard]; exact hs
  · rw [jumpStep_eq]; exact hs

/-- PC moves on by one, to 0, or to a jump target in 0..7 (R28, R143). -/
theorem exec_pc_le {i : Instr} {s t : State} (h : exec i s = .next t) : t.pc ≤ s.pc + 1 ∨ t.pc ≤ 7 := by
  obtain ⟨op, o, d, rfl⟩ | ⟨d, imm, rfl⟩ := exec_cases h
  · rw [aluStep_pc]
    split
    · exact .inl (Nat.zero_le _)
    · exact .inl le_rfl
  · rw [jumpStep_pc]
    exact .inr (by omega)

/-! ## The invariant of a run -/

/-- Appending events in range keeps all events in range. -/
theorem events_range_append {es fs : List Event} (he : ∀ e ∈ es, e.inRange = true) (hf : ∀ e ∈ fs, e.inRange = true) :
    ∀ e ∈ es ++ fs, e.inRange = true :=
  fun e h => (List.mem_append.mp h).elim (he e) (hf e)

/-- RO's own value may be reported, as `RO` or as `FinalRO`, while RO is in 0..13 (R166). -/
theorem State.Inv.finalRo_range {s : State} (h : State.Inv s) : ∀ e ∈ s.events ++ [.finalRo s.ro], e.inRange = true :=
  events_range_append h.events_range (by simpa [Event.inRange] using h.ro_range)

theorem exec_events_range {i : Instr} {s t : State} (hs : State.Inv s) (h : exec i s = .next t) :
    ∀ e ∈ t.events, e.inRange = true := by
  obtain he | he | he := exec_events h <;> rw [he]
  · exact hs.events_range
  · exact events_range_append hs.events_range (by simpa [Event.inRange] using exec_ro_range h hs.ro_range)
  · exact events_range_append hs.events_range (by simp [Event.inRange])

theorem inv_haltCore {s : State} (hs : State.Inv s) (hp : phase s = .halt) : State.Inv (haltCore s) := by
  obtain ⟨-, hrun, hpc⟩ := of_phase_halt hp
  exact { hs with
    events_range := hs.finalRo_range
    halted_outside := fun _ => hpc
    ceiling_stop := fun hstop => nomatch hrun.symm.trans hstop }

theorem inv_stopAtCeiling {s : State} (hs : State.Inv s) (hp : phase s = .ceiling) : State.Inv (stopAtCeiling s) := by
  obtain ⟨hst, -, hpc, hpol, hsteps⟩ := of_phase_ceiling hp
  rw [stopAtCeiling, stopAtCeilingWith_eq]
  exact { hs with
    events_range := by split; exacts [hs.finalRo_range, hs.events_range]
    ceiling_stop := fun _ => ⟨hpol, le_antisymm (hs.steps_bounded hpol) hsteps, hst, hpc⟩ }

/-- An executed instruction and its count: PC was below N, so it stays within 256, and the host let the step run, so
fewer than 50 steps were counted under `Continuous`. -/
theorem inv_countStep {i : Instr} {s u : State} (hs : State.Inv s) (hp : phase s = .execute)
    (hu : exec i s = .next u) : State.Inv (countStep u) := by
  obtain ⟨hst, hrun, hpc, hlet⟩ := of_phase_execute hp
  have hn : s.n ≤ 256 := hs.imem_wf.2
  have hrange := exec_pc_le hu
  have hro := exec_ro_range hu hs.ro_range
  have hev := exec_events_range hs hu
  obtain ⟨a, b, r, p, c, es, rfl⟩ := exec_frame hu
  rw [countStep_eq]
  exact {
    imem_wf := hs.imem_wf
    pc_range := by dsimp only at hrange ⊢; omega
    ro_range := hro
    events_range := hev
    steps_bounded := fun hpol => by
      have hlt : s.steps < 50 := by simpa [State.letRun, show s.policy = .continuous from hpol] using hlet
      simpa [show s.policy = .continuous from hpol] using hlt
    halted_outside := fun hhalt => nomatch hst.symm.trans hhalt
    ceiling_stop := fun hstop => nomatch hrun.symm.trans hstop }

/-- Settles O3: a step is the halt, an executed instruction, the ceiling stop, or no change. -/
theorem everyStepKeepsRunInvariant : Obligations.EveryStepKeepsRunInvariant := by
  intro s t hs h
  obtain ⟨-, rfl⟩ | ⟨hp, rfl⟩ | ⟨hp, b, u, -, hu, rfl⟩ | ⟨hp, rfl⟩ | ⟨-, rfl⟩ := step_cases h
  · exact hs
  · exact inv_haltCore hs hp
  · exact inv_countStep hs hp hu
  · exact inv_stopAtCeiling hs hp
  · exact hs

end Sys2Proof.Machine
end

section
/-! Proofs of the families spec/20_memory.md, spec/42_step.md, spec/60_exceptions.md and
spec/70_reset_and_hazards.md: boot, the frame of a step, and how a run ends. -/

namespace Sys2Proof.Machine

/-! ## Boot -/

/-- Boot is the reset state with the program loaded and the policy chosen (R222). -/
theorem boot_eq (file : List Byte) (c : Char) :
    boot file c = { State.reset with imem := Memory.load file, policy := policyOfInput c } := rfl

/-- Any canonical buffer under any policy may stand in the reset state. -/
theorem inv_reset_with {m : Memory} (hm : Memory.wf m) (p : RunPolicy) :
    State.Inv { State.reset with imem := m, policy := p } where
  imem_wf := hm
  pc_range := Nat.zero_le 256
  ro_range := Nat.zero_le 13
  events_range := nofun
  steps_bounded := fun _ => Nat.zero_le 50
  halted_outside := nofun
  ceiling_stop := nofun

/-- Settles O2: the empty buffer is canonical. -/
theorem resetMeetsRunInvariant : Obligations.ResetMeetsRunInvariant :=
  inv_reset_with Memory.reset_wf .continuous

/-- Settles O4: a loaded buffer reads as the first 256 bytes of its file. -/
theorem bootMeetsRunInvariantAndLoadsProgram : Obligations.BootMeetsRunInvariantAndLoadsProgram := by
  intro file c
  have hn : (boot file c).n = min file.length 256 := (Memory.length_load file).trans (Nat.min_comm _ _)
  have hread (a : Nat) : Memory.read (boot file c).imem a = (file.take 256)[a]? := Memory.read_load file a
  refine ⟨inv_reset_with (Memory.load_wf file) _, hn, fun a ha => ?_, fun a ha => ?_, rfl⟩
  · rw [hread, List.getElem?_take_of_lt (by omega)]
  · rw [hread, List.getElem?_eq_none_iff, List.length_take]
    omega

/-- Settles O5: only the character S selects Stepped. -/
theorem modeCharacterSelectsPolicy : Obligations.ModeCharacterSelectsPolicy := fun _ _ =>
  ⟨rfl, rfl, fun hc => if_neg hc⟩

/-! ## The frame of a step -/

/-- Nothing writes the buffer (R53). -/
theorem step_imem {s t : State} (h : step s = .next t) : t.imem = s.imem := by
  obtain ⟨-, rfl⟩ | ⟨-, rfl⟩ | ⟨-, b, u, -, hu, rfl⟩ | ⟨-, rfl⟩ | ⟨-, rfl⟩ := step_cases h
  · rfl
  · rfl
  · obtain ⟨_, _, _, _, _, _, rfl⟩ := exec_frame hu
    rw [countStep_eq]
  · rw [stopAtCeiling, stopAtCeilingWith_eq]
  · rfl

/-- Settles O11: a step keeps the buffer, and N and every reading are the buffer's. -/
theorem noStepWritesInstructionBuffer : Obligations.NoStepWritesInstructionBuffer := by
  intro s t h
  have himem := step_imem h
  exact ⟨himem, congrArg List.length himem, fun a => by rw [himem]⟩

/-- Settles O46: both paths of an instruction answer a next state. -/
theorem everyInstructionCompletes : Obligations.EveryInstructionCompletes := exec_completes

/-- Settles O47: an instruction changes registers, PC and Carry alone, and appends at most two events. -/
theorem instructionsKeepBufferStatusAndHost : Obligations.InstructionsKeepBufferStatusAndHost := by
  intro i s t h
  have hev : ∃ es, t.events = s.events ++ es ∧ es.length ≤ 2 := by
    obtain he | he | he := exec_events h
    · exact ⟨[], by rw [he, List.append_nil], by simp⟩
    · exact ⟨_, he, by simp⟩
    · exact ⟨_, he, by simp⟩
  obtain ⟨_, _, _, _, _, _, rfl⟩ := exec_frame h
  exact ⟨fun _ => rfl, rfl, rfl, rfl, rfl, rfl, rfl, rfl, rfl, hev⟩

/-- In a canonical buffer the fetch of an executing core gives a byte, whose instruction completes (R42, R113). -/
theorem step_of_execute_wf {s : State} (hm : Memory.wf s.imem) (hp : phase s = .execute) :
    ∃ b u, fetchByte s = some b ∧ exec (decode b) s = .next u ∧ step s = .next (countStep u) := by
  obtain ⟨-, -, hpc, -⟩ := of_phase_execute hp
  obtain ⟨b, hb⟩ := Memory.read_isSome hm hpc
  obtain ⟨u, hu⟩ := exec_completes (decode b) s
  exact ⟨b, u, hb, hu, step_of_execute hp hb hu⟩

/-- Settles O12: only an executing step could refuse, and in a canonical buffer its fetch gives a byte. -/
theorem stepNeverFaultsOrRefuses : Obligations.StepNeverFaultsOrRefuses := by
  intro s hm
  cases hp : phase s with
  | ended => exact ⟨_, step_of_ended hp⟩
  | halt => exact ⟨_, step_of_halt hp⟩
  | execute =>
    obtain ⟨b, u, -, -, hstep⟩ := step_of_execute_wf hm hp
    exact ⟨_, hstep⟩
  | ceiling => exact ⟨_, step_of_ceiling hp⟩
  | wait => exact ⟨_, step_of_wait hp⟩

/-- Settles O57: a step appends what its instruction, the halt or the ceiling stop emits. -/
theorem stepsOnlyAppendEvents : Obligations.StepsOnlyAppendEvents := by
  intro s t h
  obtain ⟨-, rfl⟩ | ⟨-, rfl⟩ | ⟨-, b, u, -, hu, rfl⟩ | ⟨-, rfl⟩ | ⟨-, rfl⟩ := step_cases h
  · exact .inl rfl
  · exact .inr (.inl ⟨.finalRo s.ro, nofun, rfl⟩)
  · rw [countStep_events]
    obtain he | he | he := exec_events hu
    · exact .inl he
    · exact .inr (.inl ⟨.ro u.ro, nofun, he⟩)
    · exact .inr (.inr he)
  · rw [stopAtCeiling, stopAtCeilingWith_eq]
    split
    · exact .inr (.inl ⟨.finalRo s.ro, nofun, rfl⟩)
    · exact .inl rfl
  · exact .inl rfl

/-! ## What one step runs -/

/-- A core that is not running inside its program leaves its registers, PC and Carry alone, whatever ended the run. -/
theorem step_of_no_instruction {s : State} (h : s.status ≠ .running ∨ s.n ≤ s.pc) :
    step s = .next s ∨ step s = .next (haltCore s) := by
  by_cases hover : s.status = .halted ∨ s.run ≠ .active
  · exact .inl (step_of_ended (phase_of_ended hover))
  · obtain ⟨hst, hrun⟩ := (runOver_eq_false_iff s).mp (by rwa [← Bool.not_eq_true, runOver_eq_true_iff])
    exact .inr (step_of_halt (phase_of_pc_ge hst hrun (h.resolve_left (not_not_intro hst))))

/-- Settles O48: the phase decides whether a step executes, and the bookkeeping follows the policy, which no instruction
changes. -/
theorem stepRunsDecodedInstruction : Obligations.StepRunsDecodedInstruction := by
  constructor
  · intro s t b hst hrun hpc hb hlet ht
    have hp : phase s = .execute := by
      rw [phase_of_pc_lt hst hrun hpc, if_pos ((stepEnable_iff_letRun s).mpr hlet)]
    have hpol : t.policy = s.policy := (exec_policy_steps ht).1
    rw [step_of_execute hp hb ht, countStep_eq, hpol]
    cases s.policy <;> rfl
  · intro s h
    obtain hstep | hstep := step_of_no_instruction h
    · exact ⟨s, hstep, rfl, rfl, rfl, rfl, rfl⟩
    · exact ⟨haltCore s, hstep, rfl, rfl, rfl, rfl, rfl⟩

/-- Settles O50: the phase is the halt, whatever the policy. -/
theorem coreHaltsWhenPcLeavesProgram : Obligations.CoreHaltsWhenPcLeavesProgram :=
  fun _ hst hrun hpc => step_of_halt (phase_of_pc_ge hst hrun hpc)

/-- Settles O51: the phase of an ended run is the end. -/
theorem endedRunStaysAsItIs : Obligations.EndedRunStaysAsItIs :=
  fun _ h => step_of_ended (phase_of_ended h)

theorem phase_of_ceiling_reached {s : State} (hst : s.status = .running) (hrun : s.run = .active)
    (hpol : s.policy = .continuous) (hsteps : 50 ≤ s.steps) (hpc : s.pc < s.n) : phase s = .ceiling := by
  simp [phase_of_pc_lt hst hrun hpc, stepEnable_continuous hpol, Nat.not_lt.mpr hsteps, hpol, heldPhase]

/-- Settles O52: with the steps used up the phase is the ceiling stop inside the program, and the halt outside it. -/
theorem ceilingStopsContinuousRun : Obligations.CeilingStopsContinuousRun := by
  intro s hst hrun hpol hsteps
  refine ⟨fun hpc => ?_, coreHaltsWhenPcLeavesProgram s hst hrun⟩
  rw [step_of_ceiling (phase_of_ceiling_reached hst hrun hpol hsteps hpc), stopAtCeiling, stopAtCeilingWith_eq]

/-- Settles O53: without a signal the gate is closed and the phase is the wait; one signal more opens it. -/
theorem steppedWaitsForContinueSignal : Obligations.SteppedWaitsForContinueSignal := by
  intro s hst hrun hpc hpol hcont
  constructor
  · apply step_of_wait
    simp [phase_of_pc_lt hst hrun hpc, stepEnable_stepped hpol, hcont, hpol, heldPhase]
  · have hopen : stepEnable (giveContinue s) = true :=
      (stepEnable_iff_letRun _).mpr (.inr ⟨hpol, Nat.succ_pos s.continues⟩)
    rw [phase_of_pc_lt (s := giveContinue s) hst hrun hpc, if_pos hopen]

/-- Settles O54: terminating an active run ends it. -/
theorem terminatedRunIsUnfinished : Obligations.TerminatedRunIsUnfinished := by
  intro s hst hrun
  have hterm : terminate s = s.setRun .terminated := by
    simp [terminate, (runOver_eq_false_iff s).mpr ⟨hst, hrun⟩]
  exact ⟨hterm, step_of_ended (phase_of_ended (.inr (by simp [hterm])))⟩

/-- Settles O55, from the fetch's own test of PC. -/
theorem interfaceShowsFetchEnableAndHalt : Obligations.InterfaceShowsFetchEnableAndHalt := by
  intro s
  refine ⟨fun hpc => if_pos hpc, fun hpc => if_neg (Nat.not_lt.mpr hpc), stepEnable_iff_letRun s, beq_iff_eq,
    fun a ha => ?_⟩
  have hpc : s.pc = a := by
    unfold fetchAddr at ha
    split at ha
    · exact Option.some.inj ha
    · exact nomatch ha
  rw [fetchByte, hpc]

/-! ## Placing a byte -/

/-- Letting the next step run changes the host's counter or its signals, and nothing else; then the step may run. -/
theorem enableStep_eq (s : State) :
    ∃ k c, enableStep s = (s.setSteps k).setContinues c ∧ stepEnable (enableStep s) = true := by
  by_cases hopen : stepEnable s = true
  · exact ⟨s.steps, s.continues, if_pos hopen, by rwa [enableStep, if_pos hopen]⟩
  · cases hpol : s.policy with
    | continuous =>
      have heq : enableStep s = s.setSteps 0 := by simp [enableStep, hopen, hpol]
      exact ⟨0, s.continues, heq, heq ▸ stepEnable_continuous hpol⟩
    | stepped =>
      have heq : enableStep s = s.setContinues 1 := by simp [enableStep, hopen, hpol]
      exact ⟨s.steps, 1, heq, heq ▸ stepEnable_stepped hpol⟩

theorem placeAddr_lt (s : State) : placeAddr s < 256 := by
  unfold placeAddr
  split
  · assumption
  · decide

/-- Placing a byte, one update after the other; the next step may then run. -/
theorem placeNext_eq (b : Byte) (s : State) :
    ∃ k c,
      placeNext b s = (((((s.setImem (Memory.place s.imem (placeAddr s) b)).setPc (placeAddr s)).setStatus
        .running).setRun .active).setSteps k).setContinues c ∧
      stepEnable (placeNext b s) = true :=
  enableStep_eq _

/-- Settles O49: the placed byte is read back at the PC it was placed at, which lies inside the lengthened program. -/
theorem placedByteIsFetchedNext : Obligations.PlacedByteIsFetchedNext := by
  intro s w hw
  have hword : s.withFetchWord 8 w = placeNext (BitVec.ofNat 8 w) s := by
    rw [State.withFetchWord, Nat.mod_eq_of_lt (show w < 2 ^ 8 from hw)]
  have haddr := placeAddr_lt s
  obtain ⟨k, c, hplace, hopen⟩ := placeNext_eq (BitVec.ofNat 8 w) s
  rw [hplace] at hopen
  rw [hword, hplace]
  refine ⟨?_, ?_, ?_⟩
  · rw [phase_of_pc_lt rfl rfl, if_pos hopen]
    simp [State.n, Memory.length_place, haddr]
  · simp [fetchByte, Memory.read_place _ haddr]
  · simp +contextual [placeAddr, Config.bufferCapacity]

/-! ## A Continuous run ends -/

/-- A Continuous run that is still going: its buffer is canonical and its ceiling is not passed. -/
structure State.ContinuousActive (s : State) : Prop where
  imem_wf : Memory.wf s.imem
  policy : s.policy = .continuous
  status : s.status = .running
  run : s.run = .active
  steps_le : s.steps ≤ 50

/-- How a Continuous run ends, with its count (R167, R171). -/
def State.ContinuousEnded (s : State) : Prop := s.steps ≤ 50 ∧ (s.endedByHalt ∨ s.endedAtCeiling)

theorem step_of_continuousEnded {s : State} (h : s.ContinuousEnded) : step s = .next s := by
  obtain ⟨-, ⟨hhalt, -⟩ | ⟨-, hstop, -, -⟩⟩ := h
  · exact endedRunStaysAsItIs s (.inl hhalt)
  · exact endedRunStaysAsItIs s (.inr (by simp [hstop]))

/-- A step of a Continuous run ends it, or executes an instruction and counts it. -/
theorem step_of_continuousActive {s : State} (h : s.ContinuousActive) :
    ∃ t, step s = .next t ∧ (t.ContinuousEnded ∨ (t.ContinuousActive ∧ s.steps < 50 ∧ t.steps = s.steps + 1)) := by
  by_cases hpc : s.n ≤ s.pc
  · exact ⟨_, step_of_halt (phase_of_pc_ge h.status h.run hpc), .inl ⟨h.steps_le, .inl ⟨rfl, hpc⟩⟩⟩
  · have hpc := Nat.lt_of_not_le hpc
    by_cases hsteps : s.steps < 50
    · have hp : phase s = .execute := by
        simp [phase_of_pc_lt h.status h.run hpc, stepEnable_continuous h.policy, hsteps]
      obtain ⟨b, u, -, hu, hstep⟩ := step_of_execute_wf h.imem_wf hp
      have hcount := step_steps_of_execute_continuous h.policy hp hstep
      refine ⟨_, hstep, .inr ⟨?_, hsteps, hcount⟩⟩
      have hle : (countStep u).steps ≤ 50 := by omega
      obtain ⟨_, _, _, _, _, _, rfl⟩ := exec_frame hu
      rw [countStep_eq] at hle ⊢
      exact ⟨h.imem_wf, h.policy, h.status, h.run, hle⟩
    · have hsteps := Nat.not_lt.mp hsteps
      have hp := phase_of_ceiling_reached h.status h.run h.policy hsteps hpc
      refine ⟨_, step_of_ceiling hp, .inl ?_⟩
      rw [stopAtCeiling, stopAtCeilingWith_eq]
      exact ⟨h.steps_le, .inr ⟨h.status, rfl, le_antisymm h.steps_le hsteps, hpc⟩⟩

/-- By induction on the steps allowed: as many as the ceiling leaves and one more end the run. -/
theorem run_continuous_ends (k : Nat) {s : State} (h : s.ContinuousActive) (hk : 50 ≤ s.steps + k) :
    ∃ t, Host.Core.run Sys2Proof.core (k + 1) s = .next t ∧ t.ContinuousEnded := by
  induction k generalizing s with
  | zero =>
    obtain ⟨t, hstep, hend | ⟨-, hsteps, -⟩⟩ := step_of_continuousActive h
    · exact ⟨t, run_of_step 0 hstep, hend⟩
    · omega
  | succ k ih =>
    obtain ⟨t, hstep, hend | ⟨hact, -, hcount⟩⟩ := step_of_continuousActive h
    · exact ⟨t, by rw [run_of_step _ hstep, run_of_fixed (step_of_continuousEnded hend)], hend⟩
    · rw [run_of_step _ hstep]
      exact ih hact (by omega)

/-- Settles O58: 50 steps use up the ceiling, and one more ends the run. -/
theorem continuousRunEndsWithinFiftySteps : Obligations.ContinuousRunEndsWithinFiftySteps :=
  fun _ hm hpol hst hrun hsteps => run_continuous_ends 50 ⟨hm, hpol, hst, hrun, hsteps⟩ (Nat.le_add_left _ _)

end Sys2Proof.Machine
end

section
/-! Proofs of the family spec/30_encoding.md: decoding and encoding agree, the ignored bits, and the assembler's
table. -/

namespace Sys2Proof.Machine

/-! ## The eight rows' bytes with a selector that writes RO or nothing -/

theorem decode_addrRo : ∀ x : BitVec 2, decode (0b001000#6 ++ x : BitVec 8) = .addrRo x := by decide
theorem decode_subrRo : ∀ x : BitVec 2, decode (0b001001#6 ++ x : BitVec 8) = .subrRo x := by decide
theorem decode_addiRo : ∀ k : BitVec 2, decode (0b001010#6 ++ k : BitVec 8) = .addiRo (k.setWidth 3) := by decide
theorem decode_subiRo : ∀ k : BitVec 2, decode (0b001011#6 ++ k : BitVec 8) = .subiRo (4 + k.setWidth 3) := by decide
theorem decode_addrNone : ∀ x : BitVec 2, decode (0b001100#6 ++ x : BitVec 8) = .addrNone x := by decide
theorem decode_subrNone : ∀ x : BitVec 2, decode (0b001101#6 ++ x : BitVec 8) = .subrNone x := by decide
theorem decode_addiNone : ∀ k : BitVec 2, decode (0b001110#6 ++ k : BitVec 8) = .addiNone (k.setWidth 3) := by decide
theorem decode_subiNone : ∀ k : BitVec 2, decode (0b001111#6 ++ k : BitVec 8) = .subiNone (4 + k.setWidth 3) := by
  decide

/-! ## Bytes and well-formed instructions correspond one to one -/

/-- An immediate with S = 0 is its two low bits (R69). -/
theorem addable_cases : ∀ {imm : Imm}, Imm.addable imm = true → ∃ k : BitVec 2, k.setWidth 3 = imm := by decide

/-- An immediate with S = 1 is 4 more than its two low bits (R69). -/
theorem subtractable_cases : ∀ {imm : Imm}, Imm.subtractable imm = true → ∃ k : BitVec 2, 4 + k.setWidth 3 = imm := by
  decide

/-- Every well-formed instruction is what some byte decodes to. -/
theorem exists_byte_of_wellFormed {i : Instr} (h : i.wellFormed = true) : ∃ b, decode b = i := by
  cases i with
  | addrRa x => exact ⟨_, decode_addrRa x⟩
  | subrRa x => exact ⟨_, decode_subrRa x⟩
  | addiRa imm => obtain ⟨k, rfl⟩ := addable_cases h; exact ⟨_, decode_addiRa k⟩
  | subiRa imm => obtain ⟨k, rfl⟩ := subtractable_cases h; exact ⟨_, decode_subiRa k⟩
  | addrRb x => exact ⟨_, decode_addrRb x⟩
  | subrRb x => exact ⟨_, decode_subrRb x⟩
  | addiRb imm => obtain ⟨k, rfl⟩ := addable_cases h; exact ⟨_, decode_addiRb k⟩
  | subiRb imm => obtain ⟨k, rfl⟩ := subtractable_cases h; exact ⟨_, decode_subiRb k⟩
  | addrRo x => exact ⟨_, decode_addrRo x⟩
  | subrRo x => exact ⟨_, decode_subrRo x⟩
  | addiRo imm => obtain ⟨k, rfl⟩ := addable_cases h; exact ⟨_, decode_addiRo k⟩
  | subiRo imm => obtain ⟨k, rfl⟩ := subtractable_cases h; exact ⟨_, decode_subiRo k⟩
  | addrNone x => exact ⟨_, decode_addrNone x⟩
  | subrNone x => exact ⟨_, decode_subrNone x⟩
  | addiNone imm => obtain ⟨k, rfl⟩ := addable_cases h; exact ⟨_, decode_addiNone k⟩
  | subiNone imm => obtain ⟨k, rfl⟩ := subtractable_cases h; exact ⟨_, decode_subiNone k⟩
  | jc d sreg imm => exact ⟨_, decode_encode_jc d sreg imm⟩
  | j c d sreg imm => exact ⟨_, decode_encode_j c d sreg imm⟩

/-- Encoding what a byte decodes to gives the byte back. -/
theorem encode_decode : ∀ b : Byte, encode (decode b) = b := by decide

theorem decode_wellFormed : ∀ b : Byte, (decode b).wellFormed = true := by decide

/-- The rows of the opcode table do not overlap (R72, R74). -/
theorem rows_matching_byte : ∀ b : Byte, opcodeTable.filter (fun r => r.matchesByte b) = [(decode b).row] := by decide

/-- Settles O17: a well-formed instruction is some byte decoded, and encoding gives that byte. -/
theorem decodeUndoesEncode : Obligations.DecodeUndoesEncode := by
  intro i h
  obtain ⟨b, rfl⟩ := exists_byte_of_wellFormed h
  rw [encode_decode]

/-- Settles O16: decoding gives a well-formed instruction, encoding undoes it, and the rows do not overlap. -/
theorem everyByteIsExactlyOneRow : Obligations.EveryByteIsExactlyOneRow := fun b =>
  ⟨decode_wellFormed b, encode_decode b, rows_matching_byte b⟩

/-- Settles O13, byte by byte. -/
theorem tableWordsDecode : Obligations.TableWordsDecode := by
  unfold Obligations.TableWordsDecode
  decide

/-- The field S is the top bit of the immediate (R69). -/
theorem decodeFields_s_eq (b : Byte) : (decodeFields b).s = decide (4 ≤ (decodeFields b).imm.toNat) := by
  have htop (v : Imm) : v.getLsbD 2 = decide (4 ≤ v.toNat) := by
    rw [← BitVec.msb_eq_getLsbD_last, BitVec.msb_eq_decide]
  rw [← decodeFields_imm_bit2, htop]

/-- Settles O15: with S clear or set, the selector alone picks the ADDI or the SUBI. -/
theorem sIsTheTopBitOfImm : Obligations.SIsTheTopBitOfImm := by
  intro b
  refine ⟨decodeFields_s_eq b, fun hj hc hsreg => ⟨fun himm => ?_, fun himm => ?_⟩⟩
  · have hs : (decodeFields b).s = false := by rw [decodeFields_s_eq]; exact decide_eq_false (by omega)
    cases hd1 : (decodeFields b).d1 <;> cases hd0 : (decodeFields b).d0 <;>
      simp [decode, instrOfFields, destOfBits, hj, hc, hsreg, hs, hd1, hd0]
  · have hs : (decodeFields b).s = true := by rw [decodeFields_s_eq]; exact decide_eq_true himm
    cases hd1 : (decodeFields b).d1 <;> cases hd0 : (decodeFields b).d0 <;>
      simp [decode, instrOfFields, destOfBits, hj, hc, hsreg, hs, hd1, hd0]

/-- Settles O18: the meanings do not mention the ignored bits. -/
theorem ignoredBitsDoNotMatter : Obligations.IgnoredBitsDoNotMatter := fun _ _ _ =>
  ⟨rfl, rfl, rfl, rfl, rfl, rfl, rfl, rfl, fun _ _ _ _ _ _ => rfl⟩

/-! ## The assembler's table -/

/-- Settles O19: the spellings are pairwise different. -/
theorem assemblerReadsEachSpelling : Obligations.AssemblerReadsEachSpelling := readLine_spelling

/-- Every byte in 0x70..0x7F is a JC with selector (1,1) (R80). -/
theorem decode_jcByte (k : Imm) : decode (jcByte k) = .jc .discard (jcBit3 k) k :=
  decode_jcBits (jcBit3 k) 0b11#2 k

/-- Settles O20: the byte of JC=<k> is a JC whatever its bit 3, and that of J=<k> for k > 0 has bit 7 set. -/
theorem jumpMnemonicsDecode : Obligations.JumpMnemonicsDecode :=
  ⟨fun k => ⟨_, decode_jcByte k⟩, rfl, rfl, decode_jcByte 0, by decide⟩

/-- A line outside the table is no mnemonic's spelling, so it is read as none (R77). -/
theorem assembleLine_eq_none {line : String} (h : ∀ m ∈ mnemonicTable, spelling m ≠ line) :
    assembleLine line = none := by
  rw [assembleLine, Option.map_eq_none_iff, readLine, List.find?_eq_none]
  simpa using h

/-- Settles O21: the rejected line passes the filter of the report, and is skipped in the byte stream. -/
theorem rejectedLineEmitsNoByte : Obligations.RejectedLineEmitsNoByte := by
  intro before after line h
  have hnone := assembleLine_eq_none h
  refine ⟨hnone, ?_, ?_⟩
  · simp [rejectedLines, hnone]
  · rw [assemble, List.filterMap_append, List.filterMap_cons_none hnone]
    rfl

end Sys2Proof.Machine
end

section
/-! Proofs of the families spec/40_alu.md and spec/41_jump.md: the eight ALU-class instructions that write RO or nothing
(R128 to R135), the not-taken JC (R142), and the jumps' events (R145). -/

namespace Sys2Proof.Machine

/-! ## ALU-path steps into RO and into nothing, over numbers -/

/-- An ALU-path step into RO, whether or not the guard fires (R110, R111, R164). -/
theorem aluStep_ro (op : AluOp) (o : Operand) (s : State) :
    aluStep op o .ro s =
      afterRoWrite (alu op s.ra (rightOperand o s)).1 (alu op s.ra (rightOperand o s)).2 s := by
  cases h : exceedsThreshold (alu op s.ra (rightOperand o s)).1 with
  | false =>
    rw [aluStep_ro_quiet op o s h, afterRoWrite, if_neg (Nat.not_lt.mpr ((exceedsThreshold_eq_false_iff _).mp h))]
  | true =>
    rw [aluStep_ro_fired op o s h, afterRoWrite, if_pos ((exceedsThreshold_iff _).mp h)]
    cases s.ovfPc <;> rfl

section
variable {o : Operand} {s : State} {n : Nat}

theorem aluStep_add_ro (h : (rightOperand o s).toNat = n) :
    aluStep .add o .ro s = afterRoWrite (BitVec.ofNat 4 (s.ra.toNat + n)) (decide (15 < s.ra.toNat + n)) s := by
  rw [aluStep_ro, alu_add_of_toNat h]

theorem aluStep_sub_ro (h : (rightOperand o s).toNat = n) :
    aluStep .sub o .ro s = afterRoWrite (BitVec.ofNat 4 (16 + s.ra.toNat - n)) (decide (s.ra.toNat < n)) s := by
  rw [aluStep_ro, alu_sub_of_toNat h]

theorem aluStep_add_discard (h : (rightOperand o s).toNat = n) :
    aluStep .add o .discard s =
      { s with carry := if s.d11UpdatesCarry then decide (15 < s.ra.toNat + n) else s.carry, pc := s.pc + 1 } := by
  rw [aluStep_discard, alu_add_of_toNat h]

theorem aluStep_sub_discard (h : (rightOperand o s).toNat = n) :
    aluStep .sub o .discard s =
      { s with carry := if s.d11UpdatesCarry then decide (s.ra.toNat < n) else s.carry, pc := s.pc + 1 } := by
  rw [aluStep_discard, alu_sub_of_toNat h]

end

/-! ## Bytes that no mnemonic assembles to -/

/-- Of the ALU-class bytes that write RO or nothing, 0x20 to 0x3F, the assembler gives 0x20 alone (R78). -/
theorem assembleMnemonic_eq_of_roOrDiscard (m : Mnemonic) (h : (assembleMnemonic m).toNat / 32 = 1) :
    assembleMnemonic m = 0x20#8 := by
  cases m with
  | jc k =>
    revert h
    rw [assembleMnemonic, jcByte]
    generalize jcBit3 k = bit3
    revert bit3 k
    decide
  | ra k => revert k; decide
  | rb k => revert k; decide
  | j k => revert k; decide
  | _ => revert h; decide

theorem assembleMnemonic_ne {b : Byte} (hb : b.toNat / 32 = 1 ∧ b ≠ 0x20#8) (m : Mnemonic) :
    assembleMnemonic m ≠ b := by
  rintro rfl
  exact hb.2 (assembleMnemonic_eq_of_roOrDiscard m hb.1)

/-! ## The obligations on R128 to R135 -/

/-- Settles O32: ADDR.RO is the adding ALU-path step of RA and RB into RO. -/
theorem addRegisterIntoRo : Obligations.AddRegisterIntoRo := fun x _ =>
  ⟨decode_addrRo x, assembleLine_spelling .roMove, congrArg Host.Outcome.next (aluStep_add_ro rfl)⟩

/-- Settles O33: SUBR.RO is the subtracting ALU-path step of RA and RB into RO. -/
theorem subRegisterIntoRo : Obligations.SubRegisterIntoRo := fun x _ =>
  ⟨decode_subrRo x, assembleMnemonic_ne (by revert x; decide), congrArg Host.Outcome.next (aluStep_sub_ro rfl)⟩

/-- Settles O34: ADDI.RO is the adding ALU-path step of RA and the immediate into RO. -/
theorem addImmIntoRo : Obligations.AddImmIntoRo := fun k s =>
  ⟨decode_addiRo k, assembleMnemonic_ne (by revert k; decide),
    congrArg Host.Outcome.next (aluStep_add_ro (rightOperand_addImm_toNat k s))⟩

/-- Settles O35: SUBI.RO is the subtracting ALU-path step of RA and the immediate into RO. -/
theorem subImmIntoRo : Obligations.SubImmIntoRo := fun k s =>
  ⟨decode_subiRo k, assembleMnemonic_ne (by revert k; decide),
    congrArg Host.Outcome.next (aluStep_sub_ro (rightOperand_subImm_toNat k s))⟩

/-- Settles O36: ADDR.NONE is the adding ALU-path step of RA and RB with its result discarded. -/
theorem addRegisterDiscarded : Obligations.AddRegisterDiscarded := fun x _ =>
  ⟨decode_addrNone x, assembleMnemonic_ne (by revert x; decide),
    congrArg Host.Outcome.next (aluStep_add_discard rfl)⟩

/-- Settles O37: SUBR.NONE is the subtracting ALU-path step of RA and RB with its result discarded. -/
theorem subRegisterDiscarded : Obligations.SubRegisterDiscarded := fun x _ =>
  ⟨decode_subrNone x, assembleMnemonic_ne (by revert x; decide),
    congrArg Host.Outcome.next (aluStep_sub_discard rfl)⟩

/-- Settles O38: ADDI.NONE is the adding ALU-path step of RA and the immediate with its result discarded. -/
theorem addImmDiscarded : Obligations.AddImmDiscarded := fun k s =>
  ⟨decode_addiNone k, assembleMnemonic_ne (by revert k; decide),
    congrArg Host.Outcome.next (aluStep_add_discard (rightOperand_addImm_toNat k s))⟩

/-- Settles O39: SUBI.NONE is the subtracting ALU-path step of RA and the immediate with its result discarded. -/
theorem subImmDiscarded : Obligations.SubImmDiscarded := fun k s =>
  ⟨decode_subiNone k, assembleMnemonic_ne (by revert k; decide),
    congrArg Host.Outcome.next (aluStep_sub_discard (rightOperand_subImm_toNat k s))⟩

/-! ## The not-taken JC -/

/-- Clearing bits 7:6 of a byte clears the fields J and C and keeps the others. -/
theorem decodeFields_and_0x3F :
    ∀ b : Byte, decodeFields (b &&& 0x3F#8) = { decodeFields b with j := false, c := false } := by
  decide

/-- With Carry = 0 a byte whose J is 0 does what the ALU-class byte with the same low six bits does (R142). -/
theorem exec_decode_and_0x3F {b : Byte} {s : State} (hj : (decodeFields b).j = false) (hcarry : s.carry = false) :
    exec (decode b) s = exec (decode (b &&& 0x3F#8)) s := by
  have hfields := decodeFields_and_0x3F b
  have hjc : jumpTaken (decodeFields b) s = false := by simp [jumpTaken, hj, hcarry]
  have halu : jumpTaken (decodeFields (b &&& 0x3F#8)) s = false := by simp [jumpTaken, hfields]
  rw [exec_decode_of_not_jumpTaken hjc, exec_decode_of_not_jumpTaken halu, hfields]

/-- The same where the ALU-class byte's instruction is known. -/
theorem exec_decode_of_lowSix {b : Byte} {i : Instr} {s : State}
    (h : (decodeFields b).j = false ∧ decode (b &&& 0x3F#8) = i) (hcarry : s.carry = false) :
    exec (decode b) s = exec i s :=
  h.2 ▸ exec_decode_and_0x3F h.1 hcarry

theorem decodeFields_jcBits_j : ∀ (g : Bool) (sel : BitVec 2) (imm : Imm),
    (decodeFields (0b01#2 ++ sel ++ BitVec.ofBool g ++ imm : BitVec 8)).j = false := by
  decide

/-- Settles O43: a JC is its byte decoded, whose J is 0. -/
theorem notTakenJcRunsItsAluPath : Obligations.NotTakenJcRunsItsAluPath := by
  intro g d imm s hcarry
  refine ⟨?_, exec_completes _ s⟩
  have hj : (decodeFields (encode (.jc d g imm))).j = false := decodeFields_jcBits_j g (destBits d) imm
  rw [← exec_decode_and_0x3F hj hcarry, decode_encode_jc]

/-- Settles O44: with bits 7:6 cleared the bytes 0x70..0x7F are those of R132 to R135. -/
theorem notTakenAssemblerJcWritesOnlyCarry : Obligations.NotTakenAssemblerJcWritesOnlyCarry := by
  intro x s hcarry
  have hsel (c : Bool) : (if s.d11UpdatesCarry then c else s.carry) = (s.d11UpdatesCarry && c) := by
    rw [hcarry]
    cases s.d11UpdatesCarry <;> rfl
  refine ⟨?_, ?_, ?_, ?_⟩
  · rw [exec_decode_of_lowSix (i := .addrNone x) (by revert x; decide) hcarry,
      (addRegisterDiscarded x s).2.2, hsel]
  · rw [exec_decode_of_lowSix (i := .subrNone x) (by revert x; decide) hcarry,
      (subRegisterDiscarded x s).2.2, hsel]
  · rw [exec_decode_of_lowSix (i := .addiNone (x.setWidth 3)) (by revert x; decide) hcarry,
      (addImmDiscarded x s).2.2, hsel]
  · rw [exec_decode_of_lowSix (i := .subiNone (4 + x.setWidth 3)) (by revert x; decide) hcarry,
      (subImmDiscarded x s).2.2, hsel]

/-! ## The jumps' events -/

/-- The observation of a taken jump is decided by its selector alone (R145, R164). -/
theorem jumpStep_eq_ite (d : Dest) (imm : Imm) (s : State) :
    jumpStep d imm s =
      { s with pc := imm.toNat, events := if d = .ro then s.events ++ [.ro s.ro] else s.events } := by
  cases d <;> rfl

/-- Settles O42: both jumps are `jumpStep`. -/
theorem jumpsEmitRoBySelector : Obligations.JumpsEmitRoBySelector := fun c g d imm s =>
  ⟨by rw [exec_j, jumpStep_eq_ite], fun hcarry => by rw [exec_jc_taken d g imm hcarry, jumpStep_eq_ite]⟩

end Sys2Proof.Machine
end

section
/-! Proofs of the families spec/10_state.md, spec/40_alu.md and spec/42_step.md: the meanings against the step
pseudocode (R112, R161), and who reads and writes the registers and Carry (R22 to R24, R30, R31). -/

namespace Sys2Proof.Machine

/-! ## The ALU path against its pseudocode -/

theorem rightOperand_toNat_eq_pseudo (f : Fields) (s : State) :
    (rightOperand (operandOfSreg f.sreg f.imm) s).toNat = (pseudoOperands f s).2 := by
  cases h : f.sreg <;> simp [operandOfSreg, pseudoOperands, h]

/-- The ALU gives the result and the carry-out that R103's laws give over the integers. -/
theorem alu_eq_pseudo (f : Fields) (s : State) :
    alu (opOfS f.s) s.ra (rightOperand (operandOfSreg f.sreg f.imm) s) =
      (BitVec.ofNat 4 (pseudoResult f s), pseudoCarry f s) := by
  have hb := rightOperand_toNat_eq_pseudo f s
  cases h : f.s with
  | false =>
    simp only [opOfS, pseudoResult, pseudoCarry, h, Bool.false_eq_true, if_false]
    rw [alu_add_of_toNat hb]
    refine Prod.ext (BitVec.eq_of_toNat_eq ?_) rfl
    simp [pseudoOperands]
  | true =>
    simp only [opOfS, pseudoResult, pseudoCarry, h, if_true]
    rw [alu_sub_of_toNat hb]
    refine Prod.ext (BitVec.eq_of_toNat_eq ?_) rfl
    simp [pseudoOperands, Nat.add_comm]

theorem pseudoResult_lt (f : Fields) (s : State) : pseudoResult f s < 16 := by
  dsimp only [pseudoResult]
  split <;> omega

/-- `aluStep` is R112's ALU path with R161's observation. -/
theorem aluStep_eq_pseudo {f : Fields} {s : State} (h : jumpTaken f s = false) :
    aluStep (opOfS f.s) (operandOfSreg f.sreg f.imm) (destOfBits f.d1 f.d0) s = pseudoStep f s := by
  cases hd1 : f.d1 <;> cases hd0 : f.d0
  · simp [destOfBits, aluStep_ra, alu_eq_pseudo, pseudoStep, pseudoAluPath, h, hd1, hd0]
  · simp [destOfBits, aluStep_rb, alu_eq_pseudo, pseudoStep, pseudoAluPath, h, hd1, hd0]
  · have hr : (BitVec.ofNat 4 (pseudoResult f s)).toNat = pseudoResult f s :=
      Nat.mod_eq_of_lt (pseudoResult_lt f s)
    simp only [destOfBits, aluStep_ro, alu_eq_pseudo, afterRoWrite, hr]
    by_cases hfire : 13 < pseudoResult f s
    · cases hz : s.ovfPc <;> simp [pseudoStep, pseudoAluPath, h, hd1, hd0, hfire, hz]
    · simp [pseudoStep, pseudoAluPath, h, hd1, hd0, hfire]
  · cases hc : s.d11UpdatesCarry <;>
      simp [destOfBits, aluStep_discard, alu_eq_pseudo, pseudoStep, pseudoAluPath, h, hd1, hd0, hc]

/-- `jumpStep` is R161's jump with its observation. -/
theorem jumpStep_eq_pseudo {f : Fields} {s : State} (h : jumpTaken f s = true) :
    jumpStep (destOfBits f.d1 f.d0) f.imm s = pseudoStep f s := by
  cases hd1 : f.d1 <;> cases hd0 : f.d0 <;> simp [destOfBits, jumpStep_eq, pseudoStep, h, hd1, hd0]

/-- Settles O45: a byte is a jump step or an ALU-path step by its fields, in the meanings as in the pseudocode. -/
theorem meaningsRefineStepPseudocode : Obligations.MeaningsRefineStepPseudocode := by
  intro b s
  cases h : jumpTaken (decodeFields b) s with
  | true => rw [exec_decode_of_jumpTaken h, jumpStep_eq_pseudo h]
  | false => rw [exec_decode_of_not_jumpTaken h, aluStep_eq_pseudo h]

/-! ## Who writes the registers and Carry -/

/-- An ALU-path step into RO writes RO alone, in 0..13, or the guard re-seeds the registers and says so (R110). -/
theorem afterRoWrite_registers (r : Nibble) (c : Bool) (s : State) :
    ((afterRoWrite r c s).ra = s.ra ∧ (afterRoWrite r c s).rb = s.rb ∧ (afterRoWrite r c s).ro.toNat ≤ 13 ∧
      Event.overflowReset ∉ (afterRoWrite r c s).events.drop s.events.length) ∨
    ((afterRoWrite r c s).ra = 0 ∧ (afterRoWrite r c s).rb = 1 ∧ (afterRoWrite r c s).ro = 0 ∧
      Event.overflowReset ∈ (afterRoWrite r c s).events.drop s.events.length) := by
  unfold afterRoWrite
  by_cases hfire : 13 < r.toNat
  · exact .inr (by simp [hfire])
  · exact .inl (by simp [hfire, Nat.not_lt.mp hfire])

/-- Settles O7: a jump step writes none of them, and an ALU-path step what its selector says. -/
theorem registersWrittenOnlyThroughSelector : Obligations.RegistersWrittenOnlyThroughSelector := by
  intro b s t ht
  refine ⟨fun hj => ?_, fun hj => ?_⟩
  · rw [exec_decode_of_jumpTaken hj, jumpStep_eq] at ht
    obtain rfl := Host.Outcome.next.inj ht
    exact ⟨rfl, rfl, rfl, rfl⟩
  · rw [exec_decode_of_not_jumpTaken hj] at ht
    obtain rfl := Host.Outcome.next.inj ht
    cases (decodeFields b).d1 <;> cases (decodeFields b).d0 <;> dsimp only [destOfBits]
    · exact ⟨rfl, rfl⟩
    · exact ⟨rfl, rfl⟩
    · rw [aluStep_ro]
      exact afterRoWrite_registers _ _ s
    · rw [aluStep_discard]
      exact ⟨rfl, rfl, rfl⟩

theorem afterRoWrite_carry (r : Nibble) (c : Bool) (s : State) : (afterRoWrite r c s).carry = c := by
  unfold afterRoWrite; split <;> rfl

/-- An ALU-path step leaves the carry-out in Carry, the guard or not, unless the selector's rule keeps Carry (R107,
R109, R110). -/
theorem aluStep_carry (op : AluOp) (o : Operand) (d : Dest) (s : State) :
    (aluStep op o d s).carry =
      if writesCarry d s then (alu op s.ra (rightOperand o s)).2 else s.carry := by
  cases d with
  | ra => rfl
  | rb => rfl
  | ro => rw [aluStep_ro, afterRoWrite_carry]; rfl
  | discard => rw [aluStep_discard]; rfl

/-- Settles O8: a jump step keeps Carry, and an ALU-path step writes it the carry-out or keeps it too. -/
theorem carryWrittenOnlyOnAluPath : Obligations.CarryWrittenOnlyOnAluPath := by
  intro b s t ht hne
  cases hj : jumpTaken (decodeFields b) s with
  | true =>
    rw [exec_decode_of_jumpTaken hj] at ht
    obtain rfl := Host.Outcome.next.inj ht
    exact absurd (jumpStep_carry _ _ s) hne
  | false =>
    rw [exec_decode_of_not_jumpTaken hj] at ht
    obtain rfl := Host.Outcome.next.inj ht
    rw [aluStep_carry, alu_eq_pseudo] at hne ⊢
    have hwrites : writesCarry (destOfBits (decodeFields b).d1 (decodeFields b).d0) s = true := by
      by_contra hkeep
      exact hne (if_neg hkeep)
    exact ⟨rfl, fun hd1 hd0 => by simpa [hd1, hd0, destOfBits] using hwrites, if_pos hwrites⟩

/-! ## Who reads Carry and RO -/

theorem afterRoWrite_setCarry (r : Nibble) (c c' : Bool) (s : State) :
    afterRoWrite r c (s.setCarry c') = afterRoWrite r c s := rfl

theorem afterRoWrite_setCarry_self (r : Nibble) (c : Bool) (s : State) :
    (afterRoWrite r c s).setCarry c = afterRoWrite r c s := by
  unfold afterRoWrite; split <;> rfl

theorem afterRoWrite_setRo (r : Nibble) (c : Bool) (v : Nibble) (s : State) :
    afterRoWrite r c (s.setRo v) = afterRoWrite r c s := rfl

/-- Another Carry before an ALU-path step changes nothing after it but a Carry that the selector's rule keeps. -/
theorem aluStep_setCarry (op : AluOp) (o : Operand) (d : Dest) (c : Bool) (s : State) :
    aluStep op o d (s.setCarry c) =
      (aluStep op o d s).setCarry (if writesCarry d s then (aluStep op o d s).carry else c) := by
  have hop : rightOperand o (s.setCarry c) = rightOperand o s := by cases o <;> rfl
  rw [aluStep_carry]
  cases d with
  | ra => rw [aluStep_ra, aluStep_ra, hop]; rfl
  | rb => rw [aluStep_rb, aluStep_rb, hop]; rfl
  | ro => rw [aluStep_ro, aluStep_ro, hop, afterRoWrite_setCarry]; exact (afterRoWrite_setCarry_self _ _ s).symm
  | discard =>
    rw [aluStep_discard, aluStep_discard, hop]
    cases h : s.d11UpdatesCarry <;> simp [State.setCarry, h]

theorem jumpStep_setCarry (d : Dest) (imm : Imm) (c : Bool) (s : State) :
    jumpStep d imm (s.setCarry c) = (jumpStep d imm s).setCarry c := by
  cases d <;> rfl

/-- An instruction other than JC takes the same path in every state, whatever Carry is. -/
theorem exec_path_of_not_jc {i : Instr} (h : ∀ d sreg imm, i ≠ .jc d sreg imm) :
    (∃ op o d, ∀ s : State, exec i s = .next (aluStep op o d s)) ∨
    (∃ d imm, ∀ s : State, exec i s = .next (jumpStep d imm s)) := by
  cases i with
  | jc d sreg imm => exact absurd rfl (h d sreg imm)
  | j c d sreg imm => exact .inr ⟨_, _, fun s => exec_j c d sreg imm s⟩
  | _ => exact .inl ⟨_, _, _, fun _ => rfl⟩

/-- Settles O9: no path reads Carry, and only JC chooses its path by it. -/
theorem carryReadOnlyByJc : Obligations.CarryReadOnlyByJc := by
  intro i s t c hi ht
  obtain ⟨op, o, d, hpath⟩ | ⟨d, imm, hpath⟩ := exec_path_of_not_jc hi
  · rw [hpath] at ht
    obtain rfl := Host.Outcome.next.inj ht
    refine ⟨_, (hpath (s.setCarry c)).trans (congrArg _ (aluStep_setCarry op o d c s)), ?_⟩
    rw [aluStep_carry]
    cases writesCarry d s
    · exact .inr ⟨rfl, rfl⟩
    · exact .inl rfl
  · rw [hpath] at ht
    obtain rfl := Host.Outcome.next.inj ht
    exact ⟨c, (hpath (s.setCarry c)).trans (congrArg _ (jumpStep_setCarry d imm c s)),
      .inr ⟨rfl, jumpStep_carry d imm s⟩⟩

/-- RO before an ALU-path step is no operand of it (R24, R105). -/
theorem aluStep_setRo (op : AluOp) (o : Operand) (d : Dest) (v : Nibble) (s : State) :
    ∃ r es, aluStep op o d (s.setRo v) = { aluStep op o d s with ro := r, events := es } := by
  have hop : rightOperand o (s.setRo v) = rightOperand o s := by cases o <;> rfl
  cases d with
  | ra => exact ⟨_, _, by rw [aluStep_ra, aluStep_ra, hop]; rfl⟩
  | rb => exact ⟨_, _, by rw [aluStep_rb, aluStep_rb, hop]; rfl⟩
  | ro => exact ⟨_, _, by rw [aluStep_ro, aluStep_ro, hop, afterRoWrite_setRo]; rfl⟩
  | discard => exact ⟨_, _, by rw [aluStep_discard, aluStep_discard, hop]; rfl⟩

/-- Settles O10: with another RO an instruction takes the same path, and no path reads RO. -/
theorem roIsNeverAnOperand : Obligations.RoIsNeverAnOperand := by
  intro i s t v ht
  obtain ⟨op, o, d, hpath⟩ | ⟨d, imm, hpath⟩ := exec_path_of_carry i s.carry
  · rw [hpath s rfl] at ht
    obtain rfl := Host.Outcome.next.inj ht
    obtain ⟨r, es, heq⟩ := aluStep_setRo op o d v s
    exact ⟨_, (hpath (s.setRo v) rfl).trans (congrArg _ heq), rfl, rfl, rfl, rfl⟩
  · rw [hpath s rfl] at ht
    obtain rfl := Host.Outcome.next.inj ht
    exact ⟨_, hpath (s.setRo v) rfl, by simp [jumpStep_eq]⟩

end Sys2Proof.Machine
end
